-- ==== Sys2Proof/Word.lean ====
section
/-! DEFINITION. The words of the AW4210: bytes of the link, data lines of the local bus, unit values,
and the numbers of windows, watch entries and tags. -/

namespace Sys2Proof

/-- One byte of the supervisory link (spec/10_supervisory_link.md R158). -/
abbrev Byte := BitVec 8

/-- The local data lines D15 to D0 (spec/02_local_bus_cycles.md R24). -/
abbrev BusData := BitVec 16

/-- A unit value of 1, 2 or 4 bytes; the bits above the unit size are zero (spec/04_bus_requests.md R67). -/
abbrev Value := BitVec 32

/-- A window number 0 to 7 (spec/01_address_windows.md R1). -/
abbrev WinId := Fin 8

/-- A watch id 0 to 31 (spec/06_watch_list_and_polling.md R95). -/
abbrev WatchId := Fin 32

/-- A tag 1 to 15 (spec/09_tags_replies_and_sessions.md R143): the tag n is the element n - 1. -/
abbrev Tag := Fin 15

/-- The number of a tag, 1 to 15. -/
def Tag.number (t : Tag) : Nat := t.val + 1

end Sys2Proof
end

