-- ==== Sys2Proof/Config.lean ====
section
/-! DEFINITION. What is fixed for every AW4210: the capacities of its queues and lists, and its units of time.
One value is free: the order of two notices that one access end causes. -/

namespace Sys2Proof.Config

/-- Entries of the link request queue (R43). -/
def queueCapacity : Nat := 12
/-- Replies of the immediate reply list (R152). -/
def immediateCapacity : Nat := 4
/-- Records of the notice queue (R130). -/
def noticeCapacity : Nat := 24
/-- Records of one history ring (R121). -/
def ringCapacity : Nat := 8
/-- Greatest body length of a frame (R160). -/
def maxBody : Nat := 240
/-- The SYNC byte of a frame (R160). -/
def sync : Byte := 0xC3#8
/-- Greatest value of a 16-bit saturating counter. -/
def max16 : Nat := 0xFFFF
/-- Greatest value of a 32-bit saturating counter. -/
def max32 : Nat := 0xFFFFFFFF
/-- One past the last local address (R8: 000000h to 3FFFFFh). -/
def addressSpace : Nat := 0x400000
/-- Bus periods of 20 ns in one microsecond, one millisecond and one second (R5). -/
def perMicro : Nat := 50
def perMilli : Nat := 50000
def perSecond : Nat := 50000000
/-- The fixed reclaim time in bus periods (R37). -/
def reclaimTime : Nat := 4
/-- Link times are counted in 1/288 of a bus period: the least unit in which every bit-time of R158 is whole. -/
def linkUnitsPerPeriod : Nat := 288

/-- FREE VALUE (R133: notices of different blocks entered at one event "are taken in either order").
True when the watch notice of an access end is taken before the health notice of the same access end. The argument
is the counter `freeCount` of the state. -/
opaque watchNoticeFirst : Nat → Bool

end Sys2Proof.Config
end

