-- ==== Sys2Proof/Syntax.lean ====
section
/-! DEFINITION. The commands of the AW4210: one constructor per row of spec/opcode_table.json.
A request row carries the tag byte and the body of its frame as the link delivers them (R160, R166). -/

namespace Sys2Proof

inductive Instr where
  /-- The supply comes up; `rate` is the level of the straps RATE1:RATE0 (R140, R158). -/
  | powerOn (rate : BitVec 2)
  /-- RSTn has been low for 1 µs (R40). -/
  | rstnAsserted
  /-- RSTn is withdrawn; `rate` is the level of the straps RATE1:RATE0 (R40, R158). -/
  | rstnWithdrawn (rate : BitVec 2)
  /-- RXD has been high for 10 bit-times after reset (R159). -/
  | receiverStart
  /-- A character is taken from RXD: its data byte, and whether its stop bit was high (R159, R162). -/
  | byteArrival (data : Byte) (stopHigh : Bool)
  /-- 32 bit-times pass inside a frame without a start bit (R164). -/
  | gapTimerExpiry
  /-- A READ frame arrives (R68). -/
  | read (tagByte : Byte) (body : List Byte)
  /-- A WRITE frame arrives (R69). -/
  | write (tagByte : Byte) (body : List Byte)
  /-- A SEQUENCE frame arrives (R70). -/
  | sequence (tagByte : Byte) (body : List Byte)
  /-- A WINDOW_SET frame arrives (R14). -/
  | windowSet (tagByte : Byte) (body : List Byte)
  /-- A WINDOW_CLOSE frame arrives (R15). -/
  | windowClose (tagByte : Byte) (body : List Byte)
  /-- A WINDOW_QUERY frame arrives (R20). -/
  | windowQuery (tagByte : Byte) (body : List Byte)
  /-- A WATCH_SET frame arrives (R98). -/
  | watchSet (tagByte : Byte) (body : List Byte)
  /-- A WATCH_DROP frame arrives (R100). -/
  | watchDrop (tagByte : Byte) (body : List Byte)
  /-- A WATCH_QUERY frame arrives (R101). -/
  | watchQuery (tagByte : Byte) (body : List Byte)
  /-- A COUNTERS_READ frame arrives (R126). -/
  | countersRead (tagByte : Byte) (body : List Byte)
  /-- A COUNTERS_CLEAR frame arrives (R127). -/
  | countersClear (tagByte : Byte) (body : List Byte)
  /-- A HISTORY_READ frame arrives (R128). -/
  | historyRead (tagByte : Byte) (body : List Byte)
  /-- A TIMING_SET frame arrives (R151). -/
  | timingSet (tagByte : Byte) (body : List Byte)
  /-- A STATUS frame arrives (R154). -/
  | status (tagByte : Byte) (body : List Byte)
  /-- An IDENTIFY frame arrives (R155). -/
  | identify (tagByte : Byte) (body : List Byte)
  /-- A NOTICE_ACK frame arrives (R138). -/
  | noticeAck (tagByte : Byte) (body : List Byte)
  /-- An ABORT frame arrives (R60). -/
  | abort (tagByte : Byte) (body : List Byte)
  /-- A RESTART frame arrives (R156). -/
  | restart (tagByte : Byte) (body : List Byte)
  /-- A good frame of an unlisted KIND arrives (R144). -/
  | unknownKind (kind : Byte) (tagByte : Byte) (body : List Byte)
  /-- The arbiter makes a grant (R50, R51). -/
  | grant
  /-- The access in progress ends. `ready` is the level of READY at the end of strobe periods 1, 2, … (a period
  beyond the list: low), `deferred` says that DEFERn was asserted at the strobe end, and `lines` are the data lines
  sampled at the strobe end (R26, R27, R29). -/
  | accessEnd (ready : List Bool) (deferred : Bool) (lines : BusData)
  /-- The release-gap record has counted down to absent (R33). -/
  | gapEnd
  /-- The retry wait inside a held SEQUENCE ends (R34). -/
  | retryWaitEnd
  /-- The retry time of the DEFERRED entry of `tag` is reached (R55). -/
  | backoffEnd (tag : Tag)
  /-- The deadline of the entry of `tag` passes (R58). -/
  | deadline (tag : Tag)
  /-- The oldest window request bound to `window` takes effect (R16). -/
  | windowRequestTakesEffect (window : WinId)
  /-- The other master asserts LREQn (R36). -/
  | lreqnAsserted
  /-- A pending lend is taken (R35). -/
  | lendTaken
  /-- The other master withdraws LREQn (R37). -/
  | lreqnWithdrawn
  /-- The 4 periods of RECLAIM end (R37). -/
  | reclaimEnd
  /-- The poll tick timer expires (R103). -/
  | pollTick
  /-- The interval timer expires (R120). -/
  | intervalEnd
  /-- The resend timer expires (R135). -/
  | resendTimerExpiry
  /-- The last stop bit of the frame in transmission ends (R169). -/
  | frameEnd
  /-- RXD is seen high again after a character with a low stop bit (R159). -/
  | rxdHighAfterBreak
deriving DecidableEq, Repr

end Sys2Proof
end

