-- ==== Sys2Proof/WellFormed.lean ====
section
/-! DEFINITION. Which commands can come from outside at all: a frame body has at most 240 bytes (R160), the row
UNKNOWN_KIND is for the KIND bytes that spec/11_message_layouts_and_device_data.md does not list (R144), and no strobe
lasts longer than the greatest ready limit (R5, R26). -/

namespace Sys2Proof

/-- The KIND bytes listed for requests in the table "Request and Reply Kinds" (R170). -/
def requestKindCodes : List Byte :=
  [0x10#8, 0x11#8, 0x12#8, 0x20#8, 0x21#8, 0x22#8, 0x30#8, 0x31#8, 0x32#8,
   0x40#8, 0x41#8, 0x42#8, 0x50#8, 0x51#8, 0x52#8, 0x60#8, 0x61#8, 0x62#8]

/-- A body that one frame can carry (R160). -/
def bodyFits (body : List Byte) : Bool := decide (body.length ≤ Config.maxBody)

/-- The commands the outside world can send. -/
def Instr.wellFormed : Instr → Bool
  | .read _ body => bodyFits body
  | .write _ body => bodyFits body
  | .sequence _ body => bodyFits body
  | .windowSet _ body => bodyFits body
  | .windowClose _ body => bodyFits body
  | .windowQuery _ body => bodyFits body
  | .watchSet _ body => bodyFits body
  | .watchDrop _ body => bodyFits body
  | .watchQuery _ body => bodyFits body
  | .countersRead _ body => bodyFits body
  | .countersClear _ body => bodyFits body
  | .historyRead _ body => bodyFits body
  | .timingSet _ body => bodyFits body
  | .status _ body => bodyFits body
  | .identify _ body => bodyFits body
  | .noticeAck _ body => bodyFits body
  | .abort _ body => bodyFits body
  | .restart _ body => bodyFits body
  | .unknownKind kind _ body => bodyFits body && !requestKindCodes.contains kind
  | .accessEnd ready _ _ => decide (ready.length ≤ 4096)
  | .powerOn _ => true
  | .rstnAsserted => true
  | .rstnWithdrawn _ => true
  | .receiverStart => true
  | .byteArrival _ _ => true
  | .gapTimerExpiry => true
  | .grant => true
  | .gapEnd => true
  | .retryWaitEnd => true
  | .backoffEnd _ => true
  | .deadline _ => true
  | .windowRequestTakesEffect _ => true
  | .lreqnAsserted => true
  | .lendTaken => true
  | .lreqnWithdrawn => true
  | .reclaimEnd => true
  | .pollTick => true
  | .intervalEnd => true
  | .resendTimerExpiry => true
  | .frameEnd => true
  | .rxdHighAfterBreak => true

end Sys2Proof
end

