-- ==== Sys2Proof/Decode.lean ====
section
/-! DEFINITION. The command a word of spec/opcode_table.json spells. No row of that table gives its command any bits
(every "fields" is empty and there is no "fixed"), so no word spells a command. The frames of the link, which do have
bytes, are read in Machine/Operands.lean and Machine/Link.lean. -/

namespace Sys2Proof

/-- The table gives none of its rows bits, so every word answers none. -/
def decodeTableWord (_nbits _w : Nat) : Option Instr := none

end Sys2Proof
end

