-- ==== Sys2Proof/Machine/State.lean ====
section
/-! DEFINITION. Everything the spec gives the AW4210 to hold, as plain data, block by block, and its values right
after reset. Model's own fields: `pending`, `now` and `freeCount`. -/

namespace Sys2Proof.Machine

/-! ## Names of the spec's tables (R170) -/

/-- The status codes of the table "Status Codes". -/
inductive Status where
  | ok | unknownKind | badLength | badField | badTag | tagBusy | queueFull | unmapped | windowClosed
  | accessDenied | misaligned | badSequence | windowFailed | noReady | deferExhausted | expired | aborted
  | mismatch | overlap | watchDepends | slotInUse | slotEmpty | notFound | ackUnknown
deriving DecidableEq, Repr

/-- Unit size 1, 2 or 4 bytes (R10). -/
inductive UnitSize where
  | one | two | four
deriving DecidableEq, Repr

/-- Progression of the unit addresses of a READ or WRITE (R73). -/
inductive AddrMode where
  | increment | fixed
deriving DecidableEq, Repr

/-- The lane field (R4). `unset` is code 00h, held by an entry that no WINDOW_SET has written since reset. -/
inductive Lane where
  | unset | low | high | both
deriving DecidableEq, Repr

/-- The access field (R4). `unset` is code 00h, held by an entry that no WINDOW_SET has written since reset. -/
inductive Rights where
  | unset | readOnly | writeOnly | readWrite
deriving DecidableEq, Repr

/-- The ready mode (R5). `unset` is code 00h, held by an entry that no WINDOW_SET has written since reset. -/
inductive ReadyMode where
  | unset | fixed | ready
deriving DecidableEq, Repr

/-! ## Window table (R1 to R7) -/

/-- The fields of R2 to R6, which one WINDOW_SET writes together. -/
structure WindowFields where
  base : Nat
  sizeExp : Nat
  select : Nat
  lane : Lane
  rights : Rights
  setup : Nat
  strobe : Nat
  hold : Nat
  readyMode : ReadyMode
  readyLimit : Nat
  releaseGap : Nat
  retryLimit : Nat
  retryBackoff : Nat
  declareCount : Nat
  clearCount : Nat
  severeThreshold : Nat
  notifyHealth : Bool
  notifySevere : Bool
deriving DecidableEq, Repr

/-- Every field zero, as after reset (R1). -/
def WindowFields.zero : WindowFields :=
  { base := 0, sizeExp := 0, select := 0, lane := .unset, rights := .unset, setup := 0, strobe := 0, hold := 0,
    readyMode := .unset, readyLimit := 0, releaseGap := 0, retryLimit := 0, retryBackoff := 0, declareCount := 0,
    clearCount := 0, severeThreshold := 0, notifyHealth := false, notifySevere := false }

inductive HealthState where
  | healthy | suspect | failed
deriving DecidableEq, Repr

/-- The health fields of a window (R7). -/
structure Health where
  state : HealthState
  failureRun : Nat
  successRun : Nat
deriving DecidableEq, Repr

/-- HEALTHY with both runs 0 (R91). -/
def Health.fresh : Health := { state := .healthy, failureRun := 0, successRun := 0 }

/-- One entry of the window table (R1). -/
structure Window where
  isOpen : Bool
  fields : WindowFields
  health : Health
deriving DecidableEq, Repr

def Window.reset : Window := { isOpen := false, fields := .zero, health := .fresh }

/-! ## Link request queue (R43) -/

/-- The operation of a SEQUENCE step with its operands (R70). -/
inductive StepOp where
  | read
  | write (value : Value)
  | modify (andMask orMask : Value)
  | test (mask reference : Value)
deriving DecidableEq, Repr

/-- One unit of work of a bus request: a step of a SEQUENCE, or a unit of a READ or WRITE (R73, R78). -/
structure SeqStep where
  op : StepOp
  address : Nat
  unit : UnitSize
deriving DecidableEq, Repr

/-- The kind and body of a link item (R43). The count of a WRITE is the number of its unit values. -/
inductive LinkRequest where
  | read (address : Nat) (unit : UnitSize) (count : Nat) (mode : AddrMode)
  | write (address : Nat) (unit : UnitSize) (mode : AddrMode) (data : List Value)
  | sequence (steps : List SeqStep)
  | windowSet (fields : WindowFields)
  | windowClose
deriving DecidableEq, Repr

inductive EntryState where
  | waiting | active | deferred
deriving DecidableEq, Repr

/-- A deadline (R58): its time in bus periods, and whether it has passed (kept by an ACTIVE entry, R58). -/
structure Deadline where
  time : Nat
  passed : Bool
deriving DecidableEq, Repr

/-- One unit value of a reply (R75, R84). -/
structure UnitValue where
  unit : UnitSize
  value : Value
deriving DecidableEq, Repr

/-- One entry of the link request queue (R43). -/
structure LinkEntry where
  tag : Tag
  phase : Bool
  force : Bool
  window : WinId
  request : LinkRequest
  deadline : Option Deadline
  state : EntryState
  retryCount : Nat
  /-- The time in bus periods at which the backoff ends; absent when no backoff runs. -/
  retryTime : Option Nat
  stopRequested : Bool
  /-- Units or steps done. -/
  done : Nat
  accessIndex : Nat
  /-- The value read so far of the unit or step in progress. -/
  held : Value
  /-- The unit values of the units or steps done, oldest first. -/
  results : List UnitValue
deriving DecidableEq, Repr

/-! ## Local bus controller (R21) -/

inductive Dir where
  | read | write
deriving DecidableEq, Repr

/-- The timing profile taken at the start of an access (R5, R24). -/
structure Profile where
  setup : Nat
  strobe : Nat
  hold : Nat
  readyMode : ReadyMode
  readyLimit : Nat
  releaseGap : Nat
deriving DecidableEq, Repr

/-- The current access (R21, R24). `data` is the write data, 0 for a read; the lane enables say which byte of it is
driven. `elapsed` counts the bus periods the access has run. -/
structure Access where
  window : WinId
  address : Nat
  select : Nat
  lowLane : Bool
  highLane : Bool
  dir : Dir
  data : BusData
  profile : Profile
  elapsed : Nat
deriving DecidableEq, Repr

/-- The bus state (R21), each state with the items present in it only. Times are in bus periods. -/
inductive BusState where
  | idle
  | access (current : Access)
  | gap
  | retryWait (remaining : Nat)
  | lent
  | reclaim (remaining : Nat)
deriving DecidableEq, Repr

/-- The turn holder (R21). `dropped`: the holder was dropped by WATCH_DROP or discarded by RESTART during an access,
which still ends and delivers its outcome (R29, R38, R39). -/
inductive Holder where
  | link (tag : Tag)
  | poll (id : WatchId)
  | dropped
deriving DecidableEq, Repr

/-- The turn in service (R22): its holder, its window, and the progress of a poll turn (R106). -/
structure Turn where
  holder : Holder
  window : WinId
  pollIndex : Nat
  pollHeld : Value
deriving DecidableEq, Repr

/-- The release-gap record (R32). -/
structure GapRecord where
  select : Nat
  remaining : Nat
deriving DecidableEq, Repr

structure Bus where
  state : BusState
  turn : Option Turn
  lendPending : Bool
  gapRecord : Option GapRecord
  lendCount : Nat
  /-- The address the address lines last carried (R37, R40, R41). -/
  lastAddress : Nat
deriving DecidableEq, Repr

def Bus.reset : Bus :=
  { state := .idle, turn := none, lendPending := false, gapRecord := none, lendCount := 0, lastAddress := 0 }

/-! ## Watch engine (R95, R96) -/

inductive WatchMode where
  | matches | differ | track
deriving DecidableEq, Repr

/-- The configuration a WATCH_SET gives (R96). -/
structure WatchConfig where
  address : Nat
  unit : UnitSize
  mode : WatchMode
  mask : Value
  reference : Value
  period : Nat
  setCount : Nat
  clearCount : Nat
  notifyRaise : Bool
  notifyClear : Bool
  notifyChange : Bool
deriving DecidableEq, Repr

inductive WatchState where
  | quiet
  | rising (n : Nat)
  | raised
  | falling (n : Nat)
  | notSet
  | steady
  | settling (candidate : Value) (n : Nat)
deriving DecidableEq, Repr

/-- An in-use watch entry (R96). -/
structure WatchEntry where
  config : WatchConfig
  countdown : Nat
  state : WatchState
  stored : Option Value
  outstanding : Bool
  pollsDone : Nat
  pollFaults : Nat
  pollDeferrals : Nat
  overruns : Nat
deriving DecidableEq, Repr

/-! ## Statistics unit (R116) -/

structure Tallies where
  ok : Nat
  faults : Nat
  defers : Nat
  exhausts : Nat
deriving DecidableEq, Repr

def Tallies.zero : Tallies := { ok := 0, faults := 0, defers := 0, exhausts := 0 }

structure Counters where
  okAccesses : Nat
  faults : Nat
  defers : Nat
  exhausts : Nat
  erroredIntervals : Nat
  severeIntervals : Nat
  unavailableIntervals : Nat
deriving DecidableEq, Repr

def Counters.zero : Counters :=
  { okAccesses := 0, faults := 0, defers := 0, exhausts := 0, erroredIntervals := 0, severeIntervals := 0,
    unavailableIntervals := 0 }

/-- A closed interval record (R120). -/
structure Record where
  number : Nat
  tallies : Tallies
  errored : Bool
  severe : Bool
  unavailable : Bool
deriving DecidableEq, Repr

/-- The statistics of one window (R116); the ring is oldest first. -/
structure WindowStats where
  counters : Counters
  tallies : Tallies
  failedSeen : Bool
  ring : List Record
deriving DecidableEq, Repr

def WindowStats.zero : WindowStats := { counters := .zero, tallies := .zero, failedSeen := false, ring := [] }

/-! ## Notice unit (R130) -/

inductive NoticeKind where
  | boot | watchRaised | watchCleared | watchChanged | windowFailed | windowRecovered | intervalSevere
deriving DecidableEq, Repr

/-- A notice record (R130). -/
structure Notice where
  number : Nat
  kind : NoticeKind
  subject : Nat
  data : List Byte
  lost : Nat
  sent : Bool
deriving DecidableEq, Repr

inductive LinkState where
  | live | deaf
deriving DecidableEq, Repr

/-- The notice unit (R130); the queue is oldest first, the resend timer counts bus periods. -/
structure NoticeUnit where
  queue : List Notice
  next : Nat
  lost : Nat
  link : LinkState
  resendCount : Nat
  resendTimer : Option Nat
  resendDue : Bool
deriving DecidableEq, Repr

/-- Before the BOOT notice is entered (R130, R140). -/
def NoticeUnit.empty : NoticeUnit :=
  { queue := [], next := 1, lost := 0, link := .live, resendCount := 0, resendTimer := none, resendDue := false }

/-! ## Request tracker (R143) -/

/-- A reply frame less its CRC: KIND, tag byte and body (R171). -/
structure Reply where
  kind : Byte
  tagByte : Byte
  body : List Byte
deriving DecidableEq, Repr

inductive TagEntry where
  | empty
  | pending (phase : Bool)
  | done (phase : Bool) (reply : Reply)
deriving DecidableEq, Repr

/-- The tracker (R143); both lists are oldest first. -/
structure Tracker where
  tags : Vector TagEntry 15
  outgoing : List Tag
  immediate : List Reply
  duplicates : Nat
  drops : Nat
deriving DecidableEq, Repr

def Tracker.reset : Tracker :=
  { tags := Vector.replicate 15 .empty, outgoing := [], immediate := [], duplicates := 0, drops := 0 }

/-- The six timing parameters (R151): milliseconds, seconds, milliseconds, grants, milliseconds, resends. -/
structure Timing where
  pollTick : Nat
  interval : Nat
  lifetime : Nat
  pollShare : Nat
  resendInterval : Nat
  resendLimit : Nat
deriving DecidableEq, Repr

/-- The initial values of R151. -/
def Timing.reset : Timing :=
  { pollTick := 10, interval := 1, lifetime := 1000, pollShare := 4, resendInterval := 500, resendLimit := 5 }

/-! ## Link controller (R159 to R169) -/

/-- What the receiver of characters waits for (R159). -/
inductive LineState where
  /-- After reset: RXD high for 10 bit-times. -/
  | waitIdle
  /-- A start bit. -/
  | looking
  /-- After a low stop bit: RXD high. -/
  | waitHigh
deriving DecidableEq, Repr

/-- The receiver (R159, R162, R167). The frame receiver's state is read off the held bytes: none in HUNT, the SYNC
alone in LENGTH, more in COLLECT. The gap timer counts link units. -/
structure Receiver where
  line : LineState
  held : List Byte
  gapTimer : Option Nat
  badCrc : Nat
  oversize : Nat
  truncated : Nat
deriving DecidableEq, Repr

def Receiver.reset : Receiver :=
  { line := .waitIdle, held := [], gapTimer := none, badCrc := 0, oversize := 0, truncated := 0 }

/-- A frame in transmission (R168, R169): its bytes, the number of the notice it carries if it is a notice frame, and
the link units still to come. `timerAtEnd` is the model's own: the notice was entered at the same time as an
acknowledgement that empties the queue and taken at once, so its resend timer starts at the end of this frame and not
before (R139; notes/assumptions/26.md). -/
structure TxFrame where
  bytes : List Byte
  notice : Option Nat
  remaining : Nat
  timerAtEnd : Bool := false
deriving DecidableEq, Repr

inductive Served where
  | replyList | notice
deriving DecidableEq, Repr

/-- The transmitter (R168): SENDING when a frame is present, FREE when it is absent. -/
structure Transmitter where
  frame : Option TxFrame
  lastServed : Served
deriving DecidableEq, Repr

def Transmitter.reset : Transmitter := { frame := none, lastServed := .replyList }

/-! ## Reset (R40, R140) -/

inductive ResetCause where
  | powerOn | resetPin
deriving DecidableEq, Repr

/-- Whether RSTn holds the part in reset, and then the cause the BOOT notice will carry. -/
inductive Phase where
  | running
  | inReset (cause : ResetCause)
deriving DecidableEq, Repr

/-- The whole machine. -/
structure State where
  phase : Phase
  /-- LREQn is asserted. -/
  lreq : Bool
  /-- The sampled straps RATE1:RATE0. -/
  rate : BitVec 2
  /-- Model's own: bus periods since reset. -/
  now : Nat
  windows : Vector Window 8
  bus : Bus
  queue : List LinkEntry
  linkGrants : Nat
  watch : Vector (Option WatchEntry) 32
  pollQueue : List WatchId
  pollTimer : Nat
  stats : Vector WindowStats 8
  intervalNumber : Nat
  intervalTimer : Nat
  notices : NoticeUnit
  tracker : Tracker
  timing : Timing
  rx : Receiver
  tx : Transmitter
  /-- Model's own: the argument of the next free value. -/
  freeCount : Nat
  /-- Model's own: the commands that wait, first in first out. -/
  pending : List Instr
deriving DecidableEq, Repr

/-- Why a step stops with a fault. None: the spec names no event that stops the part, every failed check is answered
with a status and every bus or link error is counted and reported (safe: there is nothing to raise). -/
inductive Fault where
deriving DecidableEq, Repr

/-- Why a command is refused. -/
inductive Refusal where
  /-- Raised by an arm of exec whose command has no meaning yet; safe. No arm raises it: every row of the table has
  its meaning. -/
  | notModelled (mnemonic : String)
deriving DecidableEq, Repr

/-- Every block at the initial values of its table, before the BOOT notice is entered (R1, R21, R43, R66, R95, R116,
R130, R143, R162, R168). The arguments are what a reset does not set: the sampled straps, the level of LREQn, and the
model's own counter and queue. -/
def State.initial (rate : BitVec 2) (lreq : Bool) (freeCount : Nat) (pending : List Instr) : State :=
  { phase := .running, lreq := lreq, rate := rate, now := 0,
    windows := Vector.replicate 8 Window.reset, bus := .reset, queue := [], linkGrants := 0,
    watch := Vector.replicate 32 none, pollQueue := [],
    pollTimer := Timing.reset.pollTick * Config.perMilli,
    stats := Vector.replicate 8 WindowStats.zero, intervalNumber := 0,
    intervalTimer := Timing.reset.interval * Config.perSecond,
    notices := .empty, tracker := .reset, timing := .reset, rx := .reset, tx := .reset,
    freeCount := freeCount, pending := pending }

/-- The BOOT notice of a power-on: number 1, subject 0, cause POWER_ON = 01h, lost count 0, sent clear (R140). -/
def bootNotice : Notice := { number := 1, kind := .boot, subject := 0, data := [0x01#8], lost := 0, sent := false }

/-- The machine right after power-on: every initial value, and the BOOT notice alone in the notice queue (R130, R140).
DESIGN CHOICE (notes/assumptions/7.md, unsafe): the straps read 00 and LREQn is withdrawn. DESIGN CHOICE
(notes/assumptions/6.md): the FREE transmitter has not yet taken the BOOT notice. -/
def State.reset : State :=
  { State.initial 0#2 false 0 [] with
    notices := { NoticeUnit.empty with queue := [bootNotice], next := 2 } }

end Sys2Proof.Machine
end

