-- ==== Sys2Proof/Machine/Flags.lean ====
section
/-! DEFINITION. Saturating counts, the codes and flag bytes of the table "Field Encodings" (R170), the flags of an
interval record (R120), and the health machine (R86). -/

namespace Sys2Proof.Machine

/-- A saturating counter one up: it stops at its greatest value. -/
def satInc (greatest n : Nat) : Nat := min (n + 1) greatest

/-- A flag as a bit of value `weight` in a flags byte. -/
def flagBit (flag : Bool) (weight : Nat) : Nat := if flag then weight else 0

/-! ## Codes -/

/-- The table "Status Codes" (R170). -/
def Status.code : Status → Byte
  | .ok => 0x00#8
  | .unknownKind => 0x01#8
  | .badLength => 0x02#8
  | .badField => 0x03#8
  | .badTag => 0x04#8
  | .tagBusy => 0x05#8
  | .queueFull => 0x06#8
  | .unmapped => 0x07#8
  | .windowClosed => 0x08#8
  | .accessDenied => 0x09#8
  | .misaligned => 0x0A#8
  | .badSequence => 0x0B#8
  | .windowFailed => 0x0C#8
  | .noReady => 0x0D#8
  | .deferExhausted => 0x0E#8
  | .expired => 0x0F#8
  | .aborted => 0x10#8
  | .mismatch => 0x11#8
  | .overlap => 0x12#8
  | .watchDepends => 0x13#8
  | .slotInUse => 0x14#8
  | .slotEmpty => 0x15#8
  | .notFound => 0x16#8
  | .ackUnknown => 0x17#8

def UnitSize.bytes : UnitSize → Nat
  | .one => 1
  | .two => 2
  | .four => 4

def UnitSize.ofCode? : Nat → Option UnitSize
  | 1 => some .one
  | 2 => some .two
  | 4 => some .four
  | _ => none

def AddrMode.ofCode? : Nat → Option AddrMode
  | 0 => some .increment
  | 1 => some .fixed
  | _ => none

def Lane.code : Lane → Nat
  | .unset => 0
  | .low => 1
  | .high => 2
  | .both => 3

def Lane.ofCode? : Nat → Option Lane
  | 1 => some .low
  | 2 => some .high
  | 3 => some .both
  | _ => none

def Rights.code : Rights → Nat
  | .unset => 0
  | .readOnly => 1
  | .writeOnly => 2
  | .readWrite => 3

def Rights.ofCode? : Nat → Option Rights
  | 1 => some .readOnly
  | 2 => some .writeOnly
  | 3 => some .readWrite
  | _ => none

def ReadyMode.code : ReadyMode → Nat
  | .unset => 0
  | .fixed => 1
  | .ready => 2

def ReadyMode.ofCode? : Nat → Option ReadyMode
  | 1 => some .fixed
  | 2 => some .ready
  | _ => none

def HealthState.code : HealthState → Nat
  | .healthy => 0
  | .suspect => 1
  | .failed => 2

def WatchMode.code : WatchMode → Nat
  | .matches => 0
  | .differ => 1
  | .track => 2

def WatchMode.ofCode? : Nat → Option WatchMode
  | 0 => some .matches
  | 1 => some .differ
  | 2 => some .track
  | _ => none

def WatchState.code : WatchState → Nat
  | .quiet => 0x00
  | .rising _ => 0x01
  | .raised => 0x02
  | .falling _ => 0x03
  | .notSet => 0x10
  | .steady => 0x11
  | .settling _ _ => 0x12

/-- The n of RISING, FALLING and SETTLING, 0 in the other states (R101). -/
def WatchState.run : WatchState → Nat
  | .quiet => 0
  | .rising n => n
  | .raised => 0
  | .falling n => n
  | .notSet => 0
  | .steady => 0
  | .settling _ n => n

/-- The candidate of SETTLING (R101). -/
def WatchState.candidate : WatchState → Option Value
  | .settling c _ => some c
  | _ => none

def BusState.code : BusState → Nat
  | .idle => 0
  | .access _ => 1
  | .gap => 2
  | .retryWait _ => 3
  | .lent => 4
  | .reclaim _ => 5

def LinkState.code : LinkState → Nat
  | .live => 0
  | .deaf => 1

def NoticeKind.code : NoticeKind → Byte
  | .boot => 0x01#8
  | .watchRaised => 0x02#8
  | .watchCleared => 0x03#8
  | .watchChanged => 0x04#8
  | .windowFailed => 0x05#8
  | .windowRecovered => 0x06#8
  | .intervalSevere => 0x07#8

def ResetCause.code : ResetCause → Byte
  | .powerOn => 0x01#8
  | .resetPin => 0x02#8

/-! ## Rights (R4) -/

def Rights.permitsRead : Rights → Bool
  | .unset => false
  | .readOnly => true
  | .writeOnly => false
  | .readWrite => true

def Rights.permitsWrite : Rights → Bool
  | .unset => false
  | .readOnly => false
  | .writeOnly => true
  | .readWrite => true

/-- Whether a window of these rights permits the operation (R4). -/
def StepOp.permittedBy (r : Rights) : StepOp → Bool
  | .read => r.permitsRead
  | .write _ => r.permitsWrite
  | .modify _ _ => r.permitsRead && r.permitsWrite
  | .test _ _ => r.permitsRead

/-! ## Record flags (R120) -/

def Tallies.failures (t : Tallies) : Nat := t.faults + t.exhausts

/-- The record an interval end builds from the tallies (R120). -/
def Record.build (number : Nat) (severeThreshold : Nat) (t : Tallies) (failedSeen : Bool) : Record :=
  { number := number, tallies := t,
    errored := decide (1 ≤ t.failures),
    severe := decide (severeThreshold ≤ t.failures),
    unavailable := failedSeen }

/-- The record flags byte of HISTORY_READ: bit 0 errored, bit 1 severe, bit 2 unavailable (R170). -/
def Record.flags (r : Record) : Nat := flagBit r.errored 1 + flagBit r.severe 2 + flagBit r.unavailable 4

/-! ## Access outcomes and the health machine (R27, R85, R86) -/

/-- The result of one access (R27). -/
inductive Outcome where
  | ok | noReady | defer
deriving DecidableEq, Repr

/-- The three classes of input to the health machine (R85). -/
inductive HealthInput where
  | success | failure | neutral
deriving DecidableEq, Repr

/-- What a health input brought about (R87, R90). -/
inductive HealthEvent where
  | none | declared | recovered
deriving DecidableEq, Repr

/-- The class of an access outcome (R85). -/
def Outcome.healthInput : Outcome → HealthInput
  | .ok => .success
  | .noReady => .failure
  | .defer => .neutral

/-- The health machine (R86), with the declare count and the clear count of the window. -/
def Health.take (declareCount clearCount : Nat) (h : Health) : HealthInput → Health × HealthEvent
  | .neutral => (h, .none)
  | .success =>
    match h.state with
    | .healthy => (h, .none)
    | .suspect => (Health.fresh, .none)
    | .failed =>
      if h.successRun + 1 = clearCount then (Health.fresh, .recovered)
      else ({ h with successRun := h.successRun + 1 }, .none)
  | .failure =>
    match h.state with
    | .healthy => ({ state := .suspect, failureRun := 1, successRun := 0 }, .none)
    | .suspect =>
      if h.failureRun + 1 = declareCount then
        ({ state := .failed, failureRun := declareCount, successRun := 0 }, .declared)
      else ({ state := .suspect, failureRun := h.failureRun + 1, successRun := 0 }, .none)
    | .failed => ({ h with successRun := 0 }, .none)

end Sys2Proof.Machine
end

