-- ==== Sys2Proof/Machine/Operands.lean ====
section
/-! DEFINITION. The byte layouts of spec/11_message_layouts_and_device_data.md: reading the fields of a request body
with its length check and field check (R170), and writing the fields of replies and notices (R171, R172). -/

namespace Sys2Proof.Machine

/-! ## Bytes and numbers, high byte first -/

/-- The number a run of bytes spells, high byte first. -/
def beNat (bytes : List Byte) : Nat := bytes.foldl (fun n b => n * 256 + b.toNat) 0

def be1 (n : Nat) : List Byte := [BitVec.ofNat 8 n]
def be2 (n : Nat) : List Byte := [BitVec.ofNat 8 (n / 0x100), BitVec.ofNat 8 n]
def be3 (n : Nat) : List Byte := [BitVec.ofNat 8 (n / 0x10000), BitVec.ofNat 8 (n / 0x100), BitVec.ofNat 8 n]
def be4 (n : Nat) : List Byte :=
  [BitVec.ofNat 8 (n / 0x1000000), BitVec.ofNat 8 (n / 0x10000), BitVec.ofNat 8 (n / 0x100), BitVec.ofNat 8 n]

/-- The field of `size` bytes at `offset` of a body. -/
def fieldAt (body : List Byte) (offset size : Nat) : Nat := beNat ((body.drop offset).take size)

/-- A unit value as its unit size in bytes, high byte first (R67). -/
def UnitSize.toBytes (unit : UnitSize) (v : Value) : List Byte :=
  match unit with
  | .one => be1 v.toNat
  | .two => be2 v.toNat
  | .four => be4 v.toNat

def UnitValue.toBytes (u : UnitValue) : List Byte := u.unit.toBytes u.value

/-- `count` unit values read from a run of bytes (R67). -/
def readValues (unit : UnitSize) : Nat → List Byte → List Value
  | 0, _ => []
  | count + 1, bytes =>
    BitVec.ofNat 32 (beNat (bytes.take unit.bytes)) :: readValues unit count (bytes.drop unit.bytes)

/-! ## The tag byte -/

/-- The tag, bits 3 to 0; none for tag 0 (R144). -/
def tagOf? (tagByte : Byte) : Option Tag :=
  let n := tagByte.toNat % 16
  if h : 1 ≤ n ∧ n ≤ 15 then some ⟨n - 1, by omega⟩ else none

/-- Bit 4. -/
def phaseOf (tagByte : Byte) : Bool := tagByte.getLsbD 4
/-- Bit 5. -/
def forceOf (tagByte : Byte) : Bool := tagByte.getLsbD 5
/-- Bits 7 to 6 are zero. -/
def spareClear (tagByte : Byte) : Bool := !tagByte.getLsbD 7 && !tagByte.getLsbD 6

/-- The tag byte an accepted entry came with: its spare bits are zero (R146). -/
def LinkEntry.tagByte (e : LinkEntry) : Byte :=
  BitVec.ofNat 8 (e.tag.number + flagBit e.phase 16 + flagBit e.force 32)

/-! ## Request kinds -/

/-- The request kinds of the table "Request and Reply Kinds" (R170). -/
inductive Kind where
  | read | write | sequence | windowSet | windowClose | windowQuery | watchSet | watchDrop | watchQuery
  | countersRead | countersClear | historyRead | timingSet | status | identify | noticeAck | abort | restart
deriving DecidableEq, Repr

def Kind.code : Kind → Byte
  | .read => 0x10#8
  | .write => 0x11#8
  | .sequence => 0x12#8
  | .windowSet => 0x20#8
  | .windowClose => 0x21#8
  | .windowQuery => 0x22#8
  | .watchSet => 0x30#8
  | .watchDrop => 0x31#8
  | .watchQuery => 0x32#8
  | .countersRead => 0x40#8
  | .countersClear => 0x41#8
  | .historyRead => 0x42#8
  | .timingSet => 0x50#8
  | .status => 0x51#8
  | .identify => 0x52#8
  | .noticeAck => 0x60#8
  | .abort => 0x61#8
  | .restart => 0x62#8

def Kind.all : List Kind :=
  [.read, .write, .sequence, .windowSet, .windowClose, .windowQuery, .watchSet, .watchDrop, .watchQuery,
   .countersRead, .countersClear, .historyRead, .timingSet, .status, .identify, .noticeAck, .abort, .restart]

/-- The kind of a KIND byte; none for an unlisted one (R144). -/
def Kind.ofByte? (b : Byte) : Option Kind := Kind.all.find? (fun k => k.code = b)

/-- A bus request: its replies carry a progress byte (R171) and it may carry FORCE (R148). -/
def Kind.isBus : Kind → Bool
  | .read => true
  | .write => true
  | .sequence => true
  | _ => false

/-- The tagged class of R144; the other kinds are immediate. -/
def Kind.isTagged : Kind → Bool
  | .read => true
  | .write => true
  | .sequence => true
  | .windowSet => true
  | .windowClose => true
  | .watchSet => true
  | .watchDrop => true
  | .countersClear => true
  | .timingSet => true
  | _ => false

/-- The reply KIND: the received KIND with bit 7 inverted (R171). -/
def replyKind (kind : Byte) : Byte := kind ^^^ 0x80#8

/-! ## Request bodies

Each reader makes the length check and then the field check (R146 orders 1 and 2, R170). `tagOk` is the part of the
field check that falls on the tag byte. -/

/-- The field check, after the length check has passed. -/
def checked {α : Type} (ok : Bool) (a : α) : Except Status α := if ok then .ok a else .error .badField

/-- A body of one fixed length (R170). -/
def ofLength {α : Type} (body : List Byte) (length : Nat) (r : Except Status α) : Except Status α :=
  if body.length = length then r else .error .badLength

/-- READ (R68). -/
def readRead (tagOk : Bool) (body : List Byte) : Except Status LinkRequest :=
  ofLength body 6 <|
    match UnitSize.ofCode? (fieldAt body 3 1), AddrMode.ofCode? (fieldAt body 5 1) with
    | some unit, some mode =>
      let address := fieldAt body 0 3
      let count := fieldAt body 4 1
      checked (tagOk && decide (address < Config.addressSpace) && decide (1 ≤ count) && decide (count ≤ 128) &&
          decide (count * unit.bytes ≤ 128))
        (.read address unit count mode)
    | _, _ => .error .badField

/-- WRITE (R69). A unit size that is present and holds no valid code passes the length check and fails the field check
(R69, R170); a body that ends before its unit size, or before its count, is no right length; DEDUCED
(notes/assumptions/9.md). -/
def readWrite (tagOk : Bool) (body : List Byte) : Except Status LinkRequest :=
  if body.length < 4 then .error .badLength
  else
    match UnitSize.ofCode? (fieldAt body 3 1) with
    | none => .error .badField
    | some unit =>
      let address := fieldAt body 0 3
      let count := fieldAt body 5 1
      ofLength body (6 + count * unit.bytes) <|
        match AddrMode.ofCode? (fieldAt body 4 1) with
        | none => .error .badField
        | some mode =>
          checked (tagOk && decide (address < Config.addressSpace) && decide (1 ≤ count) && decide (count ≤ 128) &&
              decide (count * unit.bytes ≤ 128))
            (.write address unit mode (readValues unit count (body.drop 6)))

/-- The operands of a step, in multiples of its unit size (R70); none for a code that is not listed. -/
def operandCount? : Nat → Option Nat
  | 0 => some 0
  | 1 => some 1
  | 2 => some 2
  | 3 => some 2
  | _ => none

/-- The operation of a step from its code and its operand values (R70). -/
def stepOp (code : Nat) (operands : List Value) : StepOp :=
  match code with
  | 1 => .write (operands.getD 0 0)
  | 2 => .modify (operands.getD 0 0) (operands.getD 1 0)
  | 3 => .test (operands.getD 0 0) (operands.getD 1 0)
  | _ => .read

/-- The walk of a SEQUENCE over the steps its step count names (R70): BAD_LENGTH when the body ends before a step is
complete or bytes remain after the last step, BAD_FIELD at a step without a valid code. -/
def walkSteps : Nat → List Byte → Except Status (List SeqStep)
  | 0, bytes => if bytes.isEmpty then .ok [] else .error .badLength
  | count + 1, bytes =>
    if bytes.length < 5 then .error .badLength
    else
      match operandCount? (fieldAt bytes 0 1), UnitSize.ofCode? (fieldAt bytes 4 1) with
      | some operands, some unit =>
        if bytes.length < 5 + operands * unit.bytes then .error .badLength
        else
          match walkSteps count (bytes.drop (5 + operands * unit.bytes)) with
          | .error status => .error status
          | .ok rest =>
            .ok ({ op := stepOp (fieldAt bytes 0 1) (readValues unit operands (bytes.drop 5)),
                   address := fieldAt bytes 1 3, unit := unit } :: rest)
      | _, _ => .error .badField

/-- SEQUENCE (R70). -/
def readSequence (tagOk : Bool) (body : List Byte) : Except Status LinkRequest :=
  match body with
  | [] => .error .badLength
  | count :: rest =>
    match walkSteps count.toNat rest with
    | .error status => .error status
    | .ok steps =>
      checked (tagOk && decide (1 ≤ count.toNat) && decide (count.toNat ≤ 8) &&
          steps.all (fun st => decide (st.address < Config.addressSpace)))
        (.sequence steps)

/-- A window number 0 to 7 (R1). -/
def winId? (n : Nat) : Option WinId := if h : n < 8 then some ⟨n, h⟩ else none

/-- A watch id 0 to 31 (R95). -/
def watchId? (n : Nat) : Option WatchId := if h : n < 32 then some ⟨n, h⟩ else none

/-- Every field of R2 to R6 lies in its range, and the base is a multiple of 2^k (R14). -/
def WindowFields.inRange (f : WindowFields) : Bool :=
  decide (f.base < Config.addressSpace) && decide (8 ≤ f.sizeExp) && decide (f.sizeExp ≤ 22) &&
  decide (f.base % 2 ^ f.sizeExp = 0) && decide (f.select ≤ 5) && decide (f.lane ≠ .unset) &&
  decide (f.rights ≠ .unset) && decide (f.setup ≤ 3) && decide (1 ≤ f.strobe) && decide (f.strobe ≤ 32) &&
  decide (f.hold ≤ 3) && decide (f.readyMode ≠ .unset) && decide (16 ≤ f.readyLimit) &&
  decide (f.readyLimit ≤ 4096) && decide (f.releaseGap ≤ 7) && decide (f.retryLimit ≤ 15) &&
  decide (1 ≤ f.retryBackoff) && decide (f.retryBackoff ≤ 1023) && decide (2 ≤ f.declareCount) &&
  decide (f.declareCount ≤ 15) && decide (1 ≤ f.clearCount) && decide (f.clearCount ≤ 15) &&
  decide (1 ≤ f.severeThreshold) && decide (f.severeThreshold ≤ 65535)

/-- WINDOW_SET (R14, layout R170). -/
def readWindowSet (tagOk : Bool) (body : List Byte) : Except Status (WinId × WindowFields) :=
  ofLength body 23 <|
    match winId? (fieldAt body 0 1), Lane.ofCode? (fieldAt body 6 1), Rights.ofCode? (fieldAt body 7 1),
        ReadyMode.ofCode? (fieldAt body 22 1) with
    | some window, some lane, some rights, some readyMode =>
      let fields : WindowFields :=
        { base := fieldAt body 1 3, sizeExp := fieldAt body 4 1, select := fieldAt body 5 1, lane := lane,
          rights := rights, setup := fieldAt body 8 1, strobe := fieldAt body 9 1, hold := fieldAt body 10 1,
          readyMode := readyMode, readyLimit := fieldAt body 11 2, releaseGap := fieldAt body 13 1,
          retryLimit := fieldAt body 14 1, retryBackoff := fieldAt body 15 2, declareCount := fieldAt body 17 1,
          clearCount := fieldAt body 18 1, severeThreshold := fieldAt body 19 2,
          notifyHealth := fieldAt body 21 1 % 2 = 1, notifySevere := fieldAt body 21 1 / 2 % 2 = 1 }
      checked (tagOk && fields.inRange && decide (fieldAt body 21 1 < 4)) (window, fields)
    | _, _, _, _ => .error .badField

/-- A body of one window number: WINDOW_CLOSE, WINDOW_QUERY, COUNTERS_READ, COUNTERS_CLEAR (R170). -/
def readWindow (tagOk : Bool) (body : List Byte) : Except Status WinId :=
  ofLength body 1 <|
    match winId? (fieldAt body 0 1) with
    | some window => checked tagOk window
    | none => .error .badField

/-- A body of one watch id: WATCH_DROP, WATCH_QUERY (R170). -/
def readWatchId (tagOk : Bool) (body : List Byte) : Except Status WatchId :=
  ofLength body 1 <|
    match watchId? (fieldAt body 0 1) with
    | some id => checked tagOk id
    | none => .error .badField

/-- WATCH_SET, check 1 of R98. -/
def readWatchSet (tagOk : Bool) (body : List Byte) : Except Status (WatchId × WatchConfig) :=
  ofLength body 18 <|
    match watchId? (fieldAt body 0 1), UnitSize.ofCode? (fieldAt body 4 1), WatchMode.ofCode? (fieldAt body 5 1) with
    | some id, some unit, some mode =>
      let address := fieldAt body 1 3
      let mask := fieldAt body 6 4
      let reference := fieldAt body 10 4
      let period := fieldAt body 14 1
      let setCount := fieldAt body 15 1
      let clearCount := fieldAt body 16 1
      let flags := fieldAt body 17 1
      checked (tagOk && decide (address < Config.addressSpace) && decide (mask < 2 ^ (8 * unit.bytes)) &&
          decide (reference < 2 ^ (8 * unit.bytes)) && decide (1 ≤ period) && decide (1 ≤ setCount) &&
          decide (setCount ≤ 15) && decide (1 ≤ clearCount) && decide (clearCount ≤ 15) && decide (flags < 8))
        (id, { address := address, unit := unit, mode := mode, mask := BitVec.ofNat 32 mask,
               reference := BitVec.ofNat 32 reference, period := period, setCount := setCount,
               clearCount := clearCount, notifyRaise := flags % 2 = 1, notifyClear := flags / 2 % 2 = 1,
               notifyChange := flags / 4 % 2 = 1 })
    | _, _, _ => .error .badField

/-- HISTORY_READ: a window and a record count of 1 to 8 (R128). -/
def readHistory (tagOk : Bool) (body : List Byte) : Except Status (WinId × Nat) :=
  ofLength body 2 <|
    match winId? (fieldAt body 0 1) with
    | some window =>
      checked (tagOk && decide (1 ≤ fieldAt body 1 1) && decide (fieldAt body 1 1 ≤ 8)) (window, fieldAt body 1 1)
    | none => .error .badField

/-- NOTICE_ACK: a notice number 0 to 65535 (R138). -/
def readNoticeAck (tagOk : Bool) (body : List Byte) : Except Status Nat :=
  ofLength body 2 (checked tagOk (fieldAt body 0 2))

/-- ABORT: a target tag 1 to 15 (R60). -/
def readAbort (tagOk : Bool) (body : List Byte) : Except Status Tag :=
  ofLength body 1 <|
    let n := fieldAt body 0 1
    if h : 1 ≤ n ∧ n ≤ 15 then checked tagOk ⟨n - 1, by omega⟩ else .error .badField

/-- An empty body: STATUS, IDENTIFY, RESTART (R170). -/
def readEmpty (tagOk : Bool) (body : List Byte) : Except Status Unit :=
  ofLength body 0 (checked tagOk ())

/-- The sizes of the six parameters in the order of the TIMING_SET layout (R170). -/
def timingSizes : List Nat := [1, 1, 2, 1, 2, 1]

/-- The length of the present fields, from bits 5 to 0 of the mask (R151, R170). -/
def presentLength : Nat → List Nat → Nat
  | _, [] => 0
  | mask, size :: sizes => (if mask % 2 = 1 then size else 0) + presentLength (mask / 2) sizes

/-- The six parameters after a TIMING_SET: a present field's value, an absent field's old value (R151). -/
def presentFields : Nat → List Nat → List Nat → List Byte → List Nat
  | mask, size :: sizes, old :: olds, bytes =>
    if mask % 2 = 1 then beNat (bytes.take size) :: presentFields (mask / 2) sizes olds (bytes.drop size)
    else old :: presentFields (mask / 2) sizes olds bytes
  | _, _, _, _ => []

def Timing.toList (t : Timing) : List Nat :=
  [t.pollTick, t.interval, t.lifetime, t.pollShare, t.resendInterval, t.resendLimit]

def Timing.ofList (l : List Nat) : Timing :=
  { pollTick := l.getD 0 0, interval := l.getD 1 0, lifetime := l.getD 2 0, pollShare := l.getD 3 0,
    resendInterval := l.getD 4 0, resendLimit := l.getD 5 0 }

/-- The ranges of R151, parameter by parameter. -/
def Timing.rangeOk (t : Timing) : List Bool :=
  [decide (1 ≤ t.pollTick) && decide (t.pollTick ≤ 100),
   decide (1 ≤ t.interval) && decide (t.interval ≤ 60),
   decide (t.lifetime ≤ 65535),
   decide (1 ≤ t.pollShare) && decide (t.pollShare ≤ 8),
   decide (50 ≤ t.resendInterval) && decide (t.resendInterval ≤ 5000),
   decide (1 ≤ t.resendLimit) && decide (t.resendLimit ≤ 15)]

/-- Every parameter whose mask bit is set is in range. -/
def presentInRange : Nat → List Bool → Bool
  | _, [] => true
  | mask, ok :: oks => (mask % 2 = 0 || ok) && presentInRange (mask / 2) oks

/-- TIMING_SET (R151): the six parameters as they stand after it. The length is computed from bits 5 to 0 of the mask
alone (R170). -/
def readTimingSet (tagOk : Bool) (old : Timing) (body : List Byte) : Except Status Timing :=
  match body with
  | [] => .error .badLength
  | mask :: rest =>
    if rest.length = presentLength (mask.toNat % 64) timingSizes then
      let new := Timing.ofList (presentFields mask.toNat timingSizes old.toList rest)
      checked (tagOk && decide (mask.toNat < 64) && presentInRange mask.toNat new.rangeOk) new
    else .error .badLength

/-! ## Contents of replies (R171) -/

/-- The 22 window fields, WINDOW_SET offsets 1 to 22 (R170). -/
def WindowFields.toBytes (f : WindowFields) : List Byte :=
  be3 f.base ++ be1 f.sizeExp ++ be1 f.select ++ be1 f.lane.code ++ be1 f.rights.code ++ be1 f.setup ++
  be1 f.strobe ++ be1 f.hold ++ be2 f.readyLimit ++ be1 f.releaseGap ++ be1 f.retryLimit ++ be2 f.retryBackoff ++
  be1 f.declareCount ++ be1 f.clearCount ++ be2 f.severeThreshold ++
  be1 (flagBit f.notifyHealth 1 + flagBit f.notifySevere 2) ++ be1 f.readyMode.code

def Health.toBytes (h : Health) : List Byte := be1 h.state.code ++ be1 h.failureRun ++ be1 h.successRun

/-- The contents of a WATCH_QUERY reply from offset 1 (R171). -/
def WatchEntry.toBytes (id window : Nat) (e : WatchEntry) : List Byte :=
  be1 id ++ be1 window ++ be3 e.config.address ++ be1 e.config.unit.bytes ++ be1 e.config.mode.code ++
  be4 e.config.mask.toNat ++ be4 e.config.reference.toNat ++ be1 e.config.period ++ be1 e.config.setCount ++
  be1 e.config.clearCount ++
  be1 (flagBit e.config.notifyRaise 1 + flagBit e.config.notifyClear 2 + flagBit e.config.notifyChange 4) ++
  be1 e.countdown ++ be1 e.state.code ++ be1 e.state.run ++
  be1 (flagBit e.state.candidate.isSome 1 + flagBit e.stored.isSome 2 + flagBit e.outstanding 4) ++
  be4 (e.state.candidate.getD 0).toNat ++ be4 (e.stored.getD 0).toNat ++ be4 e.pollsDone ++ be4 e.pollFaults ++
  be4 e.pollDeferrals ++ be4 e.overruns

def Counters.toBytes (c : Counters) : List Byte :=
  be4 c.okAccesses ++ be4 c.faults ++ be4 c.defers ++ be4 c.exhausts ++ be4 c.erroredIntervals ++
  be4 c.severeIntervals ++ be4 c.unavailableIntervals

def Tallies.toBytes (t : Tallies) : List Byte := be2 t.ok ++ be2 t.faults ++ be2 t.defers ++ be2 t.exhausts

def Record.toBytes (r : Record) : List Byte := be4 r.number ++ r.tallies.toBytes ++ be1 r.flags

/-- All six parameters at their full sizes (R151, R171). -/
def Timing.toBytes (t : Timing) : List Byte :=
  be1 t.pollTick ++ be1 t.interval ++ be2 t.lifetime ++ be1 t.pollShare ++ be2 t.resendInterval ++ be1 t.resendLimit

/-- The fixed contents of IDENTIFY (R155). -/
def identifyBytes : List Byte :=
  [0x6E#8, 0x1A#8, 0x42#8, 0x10#8, 0x01#8, 0x08#8, 0x06#8, 0x0C#8, 0x0F#8, 0x20#8, 0x18#8, 0x08#8]

/-- The body of a notice frame (R172). -/
def Notice.toBytes (n : Notice) : List Byte :=
  be2 n.number ++ [n.kind.code] ++ be1 n.subject ++ be2 n.lost ++ n.data

end Sys2Proof.Machine
end

