-- ==== Sys2Proof/Machine/Ops.lean ====
section
/-! DEFINITION. The operations the commands share: the window table's decode, the splitting of units into accesses,
frames and the transmitter, the tracker's lists, the notice unit's entry, the completion of queue entries, and the
envelope of every command (`event`). -/

namespace Sys2Proof.Machine

/-- The windows in increasing number. -/
def WinId.all : List WinId := [0, 1, 2, 3, 4, 5, 6, 7]

/-- The watch ids in increasing number (R103). -/
def WatchId.all : List WatchId :=
  [0, 1, 2, 3, 4, 5, 6, 7, 8, 9, 10, 11, 12, 13, 14, 15, 16, 17, 18, 19, 20, 21, 22, 23, 24, 25, 26, 27, 28, 29, 30,
   31]

/-! ## Homes of the tables' entries -/

def State.window (s : State) (w : WinId) : Window := s.windows[w]
def State.setWindow (s : State) (w : WinId) (x : Window) : State := { s with windows := s.windows.set w x }
def State.statsOf (s : State) (w : WinId) : WindowStats := s.stats[w]
def State.setStats (s : State) (w : WinId) (x : WindowStats) : State := { s with stats := s.stats.set w x }
def State.watchOf (s : State) (id : WatchId) : Option WatchEntry := s.watch[id]
def State.setWatch (s : State) (id : WatchId) (x : Option WatchEntry) : State :=
  { s with watch := s.watch.set id x }
def State.tagOf (s : State) (t : Tag) : TagEntry := s.tracker.tags[t]
def State.setTag (s : State) (t : Tag) (x : TagEntry) : State :=
  { s with tracker := { s.tracker with tags := s.tracker.tags.set t x } }

/-! ## Address decode (R2, R8) -/

/-- One past the last address of the range (R2). -/
def WindowFields.limit (f : WindowFields) : Nat := f.base + 2 ^ f.sizeExp

/-- An OPEN window decodes the addresses of its range (R8). -/
def Window.contains (x : Window) (address : Nat) : Bool :=
  x.isOpen && decide (x.fields.base ≤ address) && decide (address < x.fields.limit)

/-- The window an address decodes to (R8). By R9 there is at most one. -/
def State.decode (s : State) (address : Nat) : Option WinId :=
  WinId.all.find? (fun w => (s.window w).contains address)

/-- Every byte of a unit lies inside the window (R10). -/
def Window.containsUnit (x : Window) (address : Nat) (unit : UnitSize) : Bool :=
  x.contains address && decide (address + unit.bytes ≤ x.fields.limit)

/-- The ranges of two windows share a byte (R9). -/
def WindowFields.overlaps (f g : WindowFields) : Bool := decide (f.base < g.limit) && decide (g.base < f.limit)

/-! ## Units and accesses (R11 to R13, R73, R78 to R81) -/

/-- The accesses one unit takes (R13). A lane `unset` belongs to no OPEN window. -/
def Lane.accesses (lane : Lane) (unit : UnitSize) : Nat :=
  match lane with
  | .low => unit.bytes
  | .high => unit.bytes
  | .both | .unset =>
    match unit with
    | .one => 1
    | .two => 1
    | .four => 2

/-- One access of a unit: its address, its byte enables, and the place of its bits in the unit value. -/
structure Piece where
  address : Nat
  low : Bool
  high : Bool
  shift : Nat
deriving DecidableEq, Repr

/-- Access number `i` of the unit at `address` (R11, R12). -/
def Lane.piece (lane : Lane) (unit : UnitSize) (address i : Nat) : Piece :=
  match lane with
  | .low => { address := address + i, low := true, high := false, shift := 8 * i }
  | .high => { address := address + i, low := false, high := true, shift := 8 * i }
  | .both | .unset =>
    match unit with
    | .one => { address := address, low := decide (address % 2 = 0), high := decide (address % 2 = 1), shift := 0 }
    | .two => { address := address, low := true, high := true, shift := 0 }
    | .four => { address := address + 2 * i, low := true, high := true, shift := 16 * i }

/-- The data lines a write access drives; a lane not enabled is not driven and reads 0 here (R11, R12). -/
def Piece.drive (p : Piece) (v : Value) : BusData :=
  let x : BusData := (v >>> p.shift).setWidth 16
  if p.low && p.high then x
  else if p.low then x &&& 0x00FF#16
  else if p.high then (x &&& 0x00FF#16) <<< 8
  else 0#16

/-- The bits of the unit value that a read access samples from the enabled lanes (R11, R12). -/
def Piece.sample (p : Piece) (lines : BusData) : Value :=
  let x : BusData :=
    if p.low && p.high then lines
    else if p.low then lines &&& 0x00FF#16
    else if p.high then lines >>> 8
    else 0#16
  x.setWidth 32 <<< p.shift

/-- The number of accesses of a step; a MODIFY reads and then writes (R80). -/
def SeqStep.accesses (st : SeqStep) (lane : Lane) : Nat :=
  match st.op with
  | .modify _ _ => 2 * lane.accesses st.unit
  | _ => lane.accesses st.unit

/-- The direction of access number `i` of a step (R79 to R81). -/
def SeqStep.dirAt (st : SeqStep) (lane : Lane) (i : Nat) : Dir :=
  match st.op with
  | .read => .read
  | .write _ => .write
  | .modify _ _ => if i < lane.accesses st.unit then .read else .write
  | .test _ _ => .read

/-- Access number `i` of a step (R79 to R81). -/
def SeqStep.pieceAt (st : SeqStep) (lane : Lane) (i : Nat) : Piece :=
  lane.piece st.unit st.address (if i < lane.accesses st.unit then i else i - lane.accesses st.unit)

/-- The value a step writes, `held` being the old value a MODIFY has read (R79, R80). -/
def SeqStep.writeValue (st : SeqStep) (held : Value) : Value :=
  match st.op with
  | .write v => v
  | .modify andMask orMask => (held &&& andMask) ||| orMask
  | .read => 0
  | .test _ _ => 0

/-- The result a done step adds to the reply (R70): none for a write. -/
def SeqStep.result (st : SeqStep) (held : Value) : List UnitValue :=
  match st.op with
  | .write _ => []
  | _ => [{ unit := st.unit, value := held }]

/-- A TEST whose masked value differs from its reference (R81). -/
def SeqStep.mismatches (st : SeqStep) (held : Value) : Bool :=
  match st.op with
  | .test mask reference => decide (held &&& mask ≠ reference)
  | _ => false

/-- The address of unit `i` (R73). -/
def AddrMode.unitAddress (mode : AddrMode) (address : Nat) (unit : UnitSize) (i : Nat) : Nat :=
  match mode with
  | .increment => address + i * unit.bytes
  | .fixed => address

/-- The number of units or steps of a bus request; 0 for a window request. -/
def LinkRequest.size : LinkRequest → Nat
  | .read _ _ count _ => count
  | .write _ _ _ data => data.length
  | .sequence steps => steps.length
  | .windowSet _ => 0
  | .windowClose => 0

/-- Unit or step number `i` of a bus request. -/
def LinkRequest.workAt (r : LinkRequest) (i : Nat) : Option SeqStep :=
  match r with
  | .read address unit count mode =>
    if i < count then some { op := .read, address := mode.unitAddress address unit i, unit := unit } else none
  | .write address unit mode data =>
    (data[i]?).map fun v => { op := .write v, address := mode.unitAddress address unit i, unit := unit }
  | .sequence steps => steps[i]?
  | .windowSet _ => none
  | .windowClose => none

/-- Every unit or step of a bus request, in order. -/
def LinkRequest.works (r : LinkRequest) : List SeqStep := (List.range r.size).filterMap r.workAt

def LinkRequest.isBus : LinkRequest → Bool
  | .read _ _ _ _ => true
  | .write _ _ _ _ => true
  | .sequence _ => true
  | .windowSet _ => false
  | .windowClose => false

def LinkRequest.isSequence : LinkRequest → Bool
  | .sequence _ => true
  | _ => false

def LinkRequest.kind : LinkRequest → Kind
  | .read _ _ _ _ => .read
  | .write _ _ _ _ => .write
  | .sequence _ => .sequence
  | .windowSet _ => .windowSet
  | .windowClose => .windowClose

/-! ## Frames (R160, R161) -/

/-- One shift of the CRC register (R161 step 3). -/
def crcShift (crc : BitVec 16) : BitVec 16 := if crc.msb then (crc <<< 1) ^^^ 0x1021#16 else crc <<< 1

/-- One covered byte (R161 steps 2 and 3). -/
def crcByte (crc : BitVec 16) (b : Byte) : BitVec 16 :=
  crcShift (crcShift (crcShift (crcShift (crcShift (crcShift (crcShift (crcShift
    (crc ^^^ (b.setWidth 16 <<< 8)))))))))

/-- The CRC of the covered bytes (R161). -/
def crc16 (covered : List Byte) : BitVec 16 := covered.foldl crcByte 0xFFFF#16

/-- A whole frame: SYNC, LEN, KIND, tag byte, body, CRC high byte first (R160). -/
def frameBytes (kind tagByte : Byte) (body : List Byte) : List Byte :=
  let covered := be1 body.length ++ [kind, tagByte] ++ body
  [Config.sync] ++ covered ++ be2 (crc16 covered).toNat

/-- One bit-time in link units, by the strapped rate (R158). -/
def bitTime (rate : BitVec 2) : Nat :=
  match rate.toNat with
  | 0 => 125000
  | 1 => 31250
  | 2 => 15625
  | _ => 4800

/-- The time of a frame of `length` characters of 10 bit-times (R158, R160). -/
def frameTime (rate : BitVec 2) (length : Nat) : Nat := length * 10 * bitTime rate

/-- The 32 bit-times of the gap timer (R164). -/
def gapTime (rate : BitVec 2) : Nat := 32 * bitTime rate

/-! ## Notice unit (R132 to R138) -/

/-- The content of a notice before it is numbered (R131). -/
structure NoticeContent where
  kind : NoticeKind
  subject : Nat
  data : List Byte
deriving DecidableEq, Repr

/-- The number after a number: 1 follows 65535 (R132). -/
def nextNoticeNumber (n : Nat) : Nat := if n < 65535 then n + 1 else 1

/-- The entry of a notice (R133). -/
def NoticeUnit.enter (u : NoticeUnit) (c : NoticeContent) : NoticeUnit :=
  if u.queue.length < Config.noticeCapacity then
    { u with
      queue := u.queue ++
        [{ number := u.next, kind := c.kind, subject := c.subject, data := c.data, lost := u.lost, sent := false }],
      next := nextNoticeNumber u.next, lost := 0 }
  else { u with lost := satInc Config.max16 u.lost }

def State.enterNotice (s : State) (c : NoticeContent) : State := { s with notices := s.notices.enter c }

/-- Several notices of one event, in their order (R133). -/
def State.enterNotices (s : State) (cs : List NoticeContent) : State :=
  { s with notices := cs.foldl NoticeUnit.enter s.notices }

/-- The due notice (R134). -/
def NoticeUnit.due (u : NoticeUnit) : Option Notice :=
  match u.link with
  | .deaf => none
  | .live => if u.resendDue then u.queue.head? else u.queue.find? (fun n => !n.sent)

/-- The mark of a take (R130, R134, R169): the notice is sent, and a pending resend is done. -/
def NoticeUnit.markTaken (u : NoticeUnit) (taken : Notice) : NoticeUnit :=
  { u with
    queue := u.queue.map (fun n => if n.number = taken.number then { n with sent := true } else n),
    resendDue := false }

/-- A start of the resend timer; at each start resend due is clear (R135). -/
def NoticeUnit.startTimer (u : NoticeUnit) (periods : Nat) : NoticeUnit :=
  { u with resendTimer := some periods, resendDue := false }

/-- The resend interval in bus periods (R136). -/
def State.resendTime (s : State) : Nat := s.timing.resendInterval * Config.perMilli

/-- The DEAF exit at a good frame's arrival (R137). -/
def NoticeUnit.deafExit (u : NoticeUnit) : NoticeUnit :=
  match u.link with
  | .live => u
  | .deaf => { u with link := .live, resendCount := 0, resendDue := true }

/-! ## Transmitter (R168, R169) -/

/-- The stored reply of the oldest listed tag (R153). A listed tag is DONE; one that is not has no reply to take. -/
def State.outgoingReply (s : State) : Option Reply :=
  match s.tracker.outgoing with
  | [] => none
  | t :: _ =>
    match s.tagOf t with
    | .done _ reply => some reply
    | .pending _ => none
    | .empty => none

/-- A frame is put on TXD (R169). -/
def State.send (s : State) (bytes : List Byte) (notice : Option Nat) (served : Served) : State :=
  { s with
    tx := { frame := some { bytes := bytes, notice := notice, remaining := frameTime s.rate bytes.length },
            lastServed := served } }

/-- The oldest listed reply is taken: the tag leaves the list and stays DONE (R153, R169). -/
def State.takeReply (s : State) (r : Reply) : State :=
  { s with tracker := { s.tracker with outgoing := s.tracker.outgoing.tail } }.send
    (frameBytes r.kind r.tagByte r.body) none .replyList

/-- The due notice is taken (R134, R169, R172). -/
def State.takeNotice (s : State) (n : Notice) : State :=
  { s with notices := s.notices.markTaken n }.send (frameBytes 0xF0#8 0x00#8 n.toBytes) (some n.number) .notice

/-- The oldest immediate reply is taken; last served stays (R152, R168, R169). -/
def State.takeImmediate (s : State) (r : Reply) (rest : List Reply) : State :=
  { s with tracker := { s.tracker with immediate := rest } }.send
    (frameBytes r.kind r.tagByte r.body) none s.tx.lastServed

/-- The choice of a FREE transmitter (R168); nothing happens while it is SENDING or nothing waits. -/
def State.transmit (s : State) : State :=
  if s.tx.frame.isSome then s
  else
    match s.tracker.immediate with
    | r :: rest => s.takeImmediate r rest
    | [] =>
      match s.outgoingReply, s.notices.due with
      | none, none => s
      | some r, none => s.takeReply r
      | none, some n => s.takeNotice n
      | some r, some n =>
        match s.tx.lastServed with
        | .replyList => s.takeNotice n
        | .notice => s.takeReply r

/-- The envelope of a command. While RSTn is asserted no block acts (R40). Else a FREE transmitter makes its choice
before the command and after it (R168: "at each event after which it is FREE and at least one source has something
waiting"); the choice before it changes nothing in a run but in the state right after reset (notes/assumptions/6.md). -/
def State.event (s : State) (f : State → State) : State :=
  match s.phase with
  | .inReset _ => s
  | .running => (f s.transmit).transmit

/-! ## Request tracker (R144 to R153) -/

/-- A reply joins the immediate reply list, or is dropped and counted on a full one (R152). -/
def State.pushImmediate (s : State) (r : Reply) : State :=
  { s with
    tracker :=
      if s.tracker.immediate.length < Config.immediateCapacity then
        { s.tracker with immediate := s.tracker.immediate ++ [r] }
      else { s.tracker with drops := satInc Config.max16 s.tracker.drops } }

/-- An answer on the immediate reply list (R144, R145, R152, R171). -/
def State.answer (s : State) (kind tagByte : Byte) (status : Status) (contents : List Byte) : State :=
  s.pushImmediate { kind := replyKind kind, tagByte := tagByte, body := status.code :: contents }

/-- A tag is listed at the end of the outgoing reply list, unless it is on it (R153). -/
def State.list (s : State) (t : Tag) : State :=
  if t ∈ s.tracker.outgoing then s
  else { s with tracker := { s.tracker with outgoing := s.tracker.outgoing ++ [t] } }

/-- The tag becomes DONE with its reply, and is listed (R147, R149, R150). -/
def State.store (s : State) (t : Tag) (phase : Bool) (r : Reply) : State := (s.setTag t (.done phase r)).list t

/-- The body of the reply of a queue entry that completes (R75, R77, R84, R171). -/
def LinkEntry.replyBody (e : LinkEntry) (status : Status) : List Byte :=
  match e.request with
  | .read _ _ _ _ => status.code :: be1 e.done ++ (e.results.map UnitValue.toBytes).flatten
  | .write _ _ _ _ => status.code :: be1 e.done
  | .sequence _ => status.code :: be1 e.done ++ (e.results.map UnitValue.toBytes).flatten
  | .windowSet _ => [status.code]
  | .windowClose => [status.code]

/-- The reply of a queue entry that completes with `status` (R65, R171). -/
def LinkEntry.reply (e : LinkEntry) (status : Status) : Reply :=
  { kind := replyKind e.request.kind.code, tagByte := e.tagByte, body := e.replyBody status }

/-- The entry leaves the queue (R43, R65). -/
def State.unqueue (s : State) (t : Tag) : State := { s with queue := s.queue.filter (fun x => x.tag ≠ t) }

/-- The completion of an entry (R65): it leaves the queue and its tag becomes DONE, one event. -/
def State.complete (s : State) (e : LinkEntry) (status : Status) : State :=
  (s.unqueue e.tag).store e.tag e.phase (e.reply status)

/-- One event completes several entries, in acceptance order (R64, R65). -/
def State.completeAll (s : State) (es : List LinkEntry) (status : Status) : State :=
  es.foldl (fun s e => s.complete e status) s

/-- The entry of a tag in the link request queue (R43: at most one). -/
def State.entryOf (s : State) (t : Tag) : Option LinkEntry := s.queue.find? (fun e => e.tag = t)

/-- The entry takes new progress or a new state and keeps its place. -/
def State.updateEntry (s : State) (e : LinkEntry) : State :=
  { s with queue := s.queue.map (fun x => if x.tag = e.tag then e else x) }

/-! ## Order, block and rights of queue entries (R46 to R49, R52) -/

/-- The oldest unfinished link item bound to a window (R46). -/
def State.oldestOn (s : State) (w : WinId) : Option LinkEntry := s.queue.find? (fun e => e.window = w)

/-- The window is blocked: a link bus request bound to it is DEFERRED (R47). -/
def State.blocked (s : State) (w : WinId) : Bool :=
  s.queue.any (fun e => e.request.isBus && decide (e.window = w) && decide (e.state = .deferred))

/-- The queue holds a window request bound to the window (R49). -/
def State.barrierOn (s : State) (w : WinId) : Bool :=
  s.queue.any (fun e => !e.request.isBus && decide (e.window = w))

/-- The window is in use: from the first access of a turn on it to the turn's end (R30). -/
def State.inUse (s : State) (w : WinId) : Bool :=
  match s.bus.turn with
  | none => false
  | some t =>
    decide (t.window = w) &&
      match s.bus.state with
      | .access _ => true
      | .retryWait _ => true
      | _ => false

end Sys2Proof.Machine
end

