-- ==== Sys2Proof/Machine/Judgement.lean ====
section
/-! DEFINITION. What access outcomes and polled values do to the judgements of the card: statistics counting (R117),
the window health with its flush and notices (R64, R85 to R90), and the evaluation of watch entries (R107 to R112). -/

namespace Sys2Proof.Machine

/-! ## Counting (R117) -/

/-- An access outcome in the running counters and the tallies of its window (R117). -/
def WindowStats.countOutcome (x : WindowStats) : Outcome → WindowStats
  | .ok =>
    { x with counters := { x.counters with okAccesses := satInc Config.max32 x.counters.okAccesses },
             tallies := { x.tallies with ok := satInc Config.max16 x.tallies.ok } }
  | .noReady =>
    { x with counters := { x.counters with faults := satInc Config.max32 x.counters.faults },
             tallies := { x.tallies with faults := satInc Config.max16 x.tallies.faults } }
  | .defer =>
    { x with counters := { x.counters with defers := satInc Config.max32 x.counters.defers },
             tallies := { x.tallies with defers := satInc Config.max16 x.tallies.defers } }

/-- An exhaustion in the running counters and the tallies of its window (R57, R117). -/
def WindowStats.countExhaustion (x : WindowStats) : WindowStats :=
  { x with counters := { x.counters with exhausts := satInc Config.max32 x.counters.exhausts },
           tallies := { x.tallies with exhausts := satInc Config.max16 x.tallies.exhausts } }

def State.countOutcome (s : State) (w : WinId) (o : Outcome) : State := s.setStats w ((s.statsOf w).countOutcome o)

def State.countExhaustion (s : State) (w : WinId) : State := s.setStats w (s.statsOf w).countExhaustion

/-! ## Health (R64, R85 to R90) -/

/-- A bus request the flush of a window takes: bound to it, FORCE clear, WAITING or DEFERRED (R64). -/
def LinkEntry.flushedBy (e : LinkEntry) (w : WinId) : Bool :=
  e.request.isBus && decide (e.window = w) && !e.force && decide (e.state ≠ .active)

/-- The flush on a FAILED declaration: in acceptance order, as one event (R64). -/
def State.flush (s : State) (w : WinId) : State :=
  s.completeAll (s.queue.filter (fun e => e.flushedBy w)) .windowFailed

/-- The notice of a declaration or recovery, entered when the window's flag for health changes is on (R87, R90). -/
def Window.healthNotice (x : Window) (w : WinId) (kind : NoticeKind) : List NoticeContent :=
  if x.fields.notifyHealth then [{ kind := kind, subject := w.val, data := [] }] else []

/-- One input to the health machine of a window, with the effects of its transition (R86, R87, R90), and the notices
to be entered for it. -/
def State.judge (s : State) (w : WinId) (input : HealthInput) : State × List NoticeContent :=
  let x := s.window w
  let taken := x.health.take x.fields.declareCount x.fields.clearCount input
  let s' := s.setWindow w { x with health := taken.1 }
  match taken.2 with
  | .none => (s', [])
  | .declared =>
    ((s'.setStats w { s'.statsOf w with failedSeen := true }).flush w, x.healthNotice w .windowFailed)
  | .recovered => (s', x.healthNotice w .windowRecovered)

/-- The health inputs of one access end: its outcome, and the exhaustion it may have caused (R57, R85). -/
def State.judgeAll (s : State) (w : WinId) (o : Outcome) (exhausted : Bool) : State × List NoticeContent :=
  let first := s.judge w o.healthInput
  if exhausted then
    let second := first.1.judge w .failure
    (second.1, first.2 ++ second.2)
  else first

/-- The order of the health notices and the watch notices of one access end. "They are taken in either order" (R133):
when there are both, a free value decides. -/
def orderNotices (freeCount : Nat) (health watch : List NoticeContent) : List NoticeContent :=
  match health, watch with
  | [], _ => watch
  | _, [] => health
  | _, _ => if Config.watchNoticeFirst freeCount then watch ++ health else health ++ watch

/-! ## Watch evaluation (R107 to R112) -/

/-- The counters and the outstanding flag at the end of a poll turn that is not orphaned (R107). The model's choice: each
counter saturates on its own, as R107 has it. So the sum of faults and deferrals, which R115 has never exceed polls done,
passes it once polls done stands at FFFFFFFFh and they go on counting (notes/assumptions/27.md). -/
def WatchEntry.countPoll (x : WatchEntry) (o : Outcome) : WatchEntry :=
  { x with
    pollsDone := satInc Config.max32 x.pollsDone,
    pollFaults := if o = .noReady then satInc Config.max32 x.pollFaults else x.pollFaults,
    pollDeferrals := if o = .defer then satInc Config.max32 x.pollDeferrals else x.pollDeferrals,
    outstanding := false }

/-- The condition of MATCH and DIFFER on a unit value (R108). -/
def WatchConfig.holds (c : WatchConfig) (v : Value) : Bool :=
  match c.mode with
  | .matches => decide (v &&& c.mask = c.reference)
  | .differ => decide (v &&& c.mask ≠ c.reference)
  | .track => false

/-- What an evaluation reports (R110, R112). -/
inductive WatchReport where
  | none
  | raised
  | cleared
  | changed (old new : Value)
deriving DecidableEq, Repr

/-- The move of a MATCH or DIFFER entry (R109). A state of TRACK is never held by such an entry and stays. -/
def WatchState.judgeCondition (setCount clearCount : Nat) (holds : Bool) (st : WatchState) :
    WatchState × WatchReport :=
  match st with
  | .quiet => if holds then (if setCount = 1 then (.raised, .raised) else (.rising 1, .none)) else (.quiet, .none)
  | .rising n =>
    if holds then (if n + 1 = setCount then (.raised, .raised) else (.rising (n + 1), .none)) else (.quiet, .none)
  | .raised => if holds then (.raised, .none) else (if clearCount = 1 then (.quiet, .cleared) else (.falling 1, .none))
  | .falling n =>
    if holds then (.raised, .none)
    else (if n + 1 = clearCount then (.quiet, .cleared) else (.falling (n + 1), .none))
  | .notSet => (.notSet, .none)
  | .steady => (.steady, .none)
  | .settling c n => (.settling c n, .none)

/-- The move of a TRACK entry on the masked value `m`, with its stored value (R111, R112). A state of MATCH or DIFFER
is never held by such an entry and stays. -/
def WatchState.follow (setCount : Nat) (m : Value) (st : WatchState) (stored : Option Value) :
    WatchState × Option Value × WatchReport :=
  match st with
  | .notSet => (.steady, some m, .none)
  | .steady =>
    let v := stored.getD 0
    if m = v then (.steady, stored, .none)
    else if setCount = 1 then (.steady, some m, .changed v m)
    else (.settling m 1, stored, .none)
  | .settling c n =>
    let v := stored.getD 0
    if m = v then (.steady, stored, .none)
    else if m = c then
      (if n + 1 = setCount then (.steady, some m, .changed v m) else (.settling c (n + 1), stored, .none))
    else (.settling m 1, stored, .none)
  | .quiet => (.quiet, stored, .none)
  | .rising n => (.rising n, stored, .none)
  | .raised => (.raised, stored, .none)
  | .falling n => (.falling n, stored, .none)

/-- The evaluation of an OK poll's unit value (R108, R109, R111). -/
def WatchEntry.evaluate (x : WatchEntry) (v : Value) : WatchEntry × WatchReport :=
  match x.config.mode with
  | .track =>
    let moved := x.state.follow x.config.setCount (v &&& x.config.mask) x.stored
    ({ x with state := moved.1, stored := moved.2.1 }, moved.2.2)
  | _ =>
    let moved := x.state.judgeCondition x.config.setCount x.config.clearCount (x.config.holds v)
    ({ x with state := moved.1 }, moved.2)

/-- The notice of a report, by the entry's flags (R110, R112). `v` is the unit value of the poll, unmasked. -/
def WatchEntry.reportNotice (x : WatchEntry) (id : WatchId) (v : Value) (r : WatchReport) : List NoticeContent :=
  match r with
  | .none => []
  | .raised =>
    if x.config.notifyRaise then
      [{ kind := .watchRaised, subject := id.val, data := x.config.unit.toBytes v }]
    else []
  | .cleared =>
    if x.config.notifyClear then
      [{ kind := .watchCleared, subject := id.val, data := x.config.unit.toBytes v }]
    else []
  | .changed old new =>
    if x.config.notifyChange then
      [{ kind := .watchChanged, subject := id.val,
         data := x.config.unit.toBytes old ++ x.config.unit.toBytes new }]
    else []

end Sys2Proof.Machine
end

