-- ==== Sys2Proof/Machine/Turns.lean ====
section
/-! DEFINITION. The local bus controller and the arbiter: turns, accesses, the release gap, lending, the choice of a
grant with its re-check, and what the end of an access does to its holder (R21 to R42, R45 to R57, R73 to R84,
R106). -/

namespace Sys2Proof.Machine

/-! ## Turns and lends (R22 to R24, R32, R33, R35) -/

/-- The timing profile of a window (R5). -/
def WindowFields.profile (f : WindowFields) : Profile :=
  { setup := f.setup, strobe := f.strobe, hold := f.hold, readyMode := f.readyMode, readyLimit := f.readyLimit,
    releaseGap := f.releaseGap }

/-- Taking the lend (R35): after the release gap if the record is present, else at once. -/
def State.takeLend (s : State) : State :=
  match s.bus.gapRecord with
  | some _ => { s with bus := { s.bus with state := .gap, turn := none } }
  | none =>
    { s with
      bus := { s.bus with state := .lent, turn := none, lendPending := false,
                          lendCount := satInc Config.max32 s.bus.lendCount } }

/-- A turn ends (R23): a pending lend is taken, else the bus is IDLE. -/
def State.endTurn (s : State) : State :=
  if s.bus.lendPending then s.takeLend
  else { s with bus := { s.bus with state := .idle, turn := none } }

/-- An access of window `w` starts (R24): its profile is taken afresh and the release-gap record is cleared (R32). -/
def State.startAccess (s : State) (w : WinId) (p : Piece) (dir : Dir) (v : Value) : State :=
  let f := (s.window w).fields
  { s with
    bus :=
      { s.bus with
        state := .access
          { window := w, address := p.address, select := f.select, lowLane := p.low, highLane := p.high, dir := dir,
            data := match dir with
              | .read => 0#16
              | .write => p.drive v
            profile := f.profile, elapsed := 0 },
        gapRecord := none, lastAddress := p.address } }

/-- The unit a poll reads (R106). -/
def WatchConfig.work (c : WatchConfig) : SeqStep := { op := .read, address := c.address, unit := c.unit }

/-- The unit or step a turn works on, the index of its next access, and the value read so far (R22, R43, R106). -/
def State.workOf (s : State) (t : Turn) : Option (SeqStep × Nat × Value) :=
  match t.holder with
  | .link tag =>
    match s.entryOf tag with
    | none => none
    | some e => (e.request.workAt e.done).map fun st => (st, e.accessIndex, e.held)
  | .poll id => (s.watchOf id).map fun x => (x.config.work, t.pollIndex, t.pollHeld)
  | .dropped => none

/-- The next access of the turn starts (R22, R24). A turn without a holder has none and ends. -/
def State.startNext (s : State) (t : Turn) : State :=
  match s.workOf t with
  | none => s.endTurn
  | some (st, i, held) =>
    let lane := (s.window t.window).fields.lane
    { s with bus := { s.bus with turn := some t } }.startAccess t.window (st.pieceAt lane i) (st.dirAt lane i)
      (st.writeValue held)

/-- The controller receives a turn (R22): a GAP first if the release-gap record names another select line (R33). -/
def State.beginTurn (s : State) (t : Turn) : State :=
  match s.bus.gapRecord with
  | none => s.startNext t
  | some g =>
    if g.select = (s.window t.window).fields.select then s.startNext t
    else { s with bus := { s.bus with state := .gap, turn := some t } }

/-! ## Arbitration (R48 to R52) -/

/-- The bus can be granted: IDLE, and no lend pending (R50). -/
def State.busFree (s : State) : Bool :=
  decide (s.bus.state = .idle) && s.bus.turn.isNone && !s.bus.lendPending

/-- A link bus request that is eligible, the bus being free (R48). -/
def State.eligibleLink (s : State) (e : LinkEntry) : Bool :=
  e.request.isBus &&
  (decide (e.state = .waiting) || (decide (e.state = .deferred) && e.retryTime.isNone)) &&
  decide ((s.oldestOn e.window).map LinkEntry.tag = some e.tag)

/-- The window a watch entry's address decodes to (R95). -/
def State.watchWindow (s : State) (id : WatchId) : Option WinId :=
  match s.watchOf id with
  | none => none
  | some x => s.decode x.config.address

/-- A poll request that is eligible, the bus being free (R49). -/
def State.eligiblePoll (s : State) (id : WatchId) : Bool :=
  match s.watchWindow id with
  | none => false
  | some w => !s.blocked w && !s.barrierOn w

/-- The oldest eligible link bus request (R51). -/
def State.linkCandidate (s : State) : Option LinkEntry := s.queue.find? s.eligibleLink

/-- The oldest eligible poll request (R49, R51). -/
def State.pollCandidate (s : State) : Option WatchId := s.pollQueue.find? s.eligiblePoll

/-- The winner of a grant. -/
inductive Winner where
  | link (e : LinkEntry)
  | poll (id : WatchId)
deriving DecidableEq, Repr

/-- The arbiter's decision (R51). -/
def State.choose (s : State) : Option Winner :=
  match s.linkCandidate, s.pollCandidate with
  | none, none => none
  | some e, none => some (.link e)
  | none, some id => some (.poll id)
  | some e, some id => if s.timing.pollShare ≤ s.linkGrants then some (.poll id) else some (.link e)

/-- The re-check at a grant: the first check that fails (R52). -/
def State.recheck (s : State) (e : LinkEntry) : Option Status :=
  let x := s.window e.window
  if !(x.isOpen && e.request.works.all
      (fun st => decide (s.decode st.address = some e.window) && x.containsUnit st.address st.unit)) then
    some .unmapped
  else if !(e.request.works.all (fun st => st.op.permittedBy x.fields.rights)) then some .accessDenied
  else if !e.force && decide (x.health.state = .failed) then some .windowFailed
  else none

/-- A grant of a link bus request (R51, R52): its re-check, then its turn. -/
def State.grantLink (s : State) (e : LinkEntry) : State :=
  match s.recheck e with
  | some status => s.complete e status
  | none =>
    { s.updateEntry { e with state := .active, retryTime := none } with linkGrants := min (s.linkGrants + 1) 8 }.beginTurn
      { holder := .link e.tag, window := e.window, pollIndex := 0, pollHeld := 0 }

/-- A grant of a poll request (R51, R106). -/
def State.grantPoll (s : State) (id : WatchId) : State :=
  match s.watchWindow id with
  | none => s
  | some w =>
    { s with linkGrants := 0 }.beginTurn { holder := .poll id, window := w, pollIndex := 0, pollHeld := 0 }

/-- One grant decision (R50, R51). -/
def State.grant (s : State) : State :=
  if s.busFree then
    match s.choose with
    | none => s
    | some (.link e) => s.grantLink e
    | some (.poll id) => s.grantPoll id
  else s

/-! ## The outcome of an access (R25 to R27) -/

/-- The longest strobe of READY mode, max(S, L) (R26). -/
def Profile.maxStrobe (p : Profile) : Nat := max p.strobe p.readyLimit

/-- The strobe's length in bus periods, and whether READY was seen in READY mode (R25, R26). `ready` holds the level of
READY at the end of strobe periods 1, 2, …; a period beyond the list is low. -/
def Profile.strobeEnd (p : Profile) (ready : List Bool) : Nat × Bool :=
  match p.readyMode with
  | .ready =>
    match ((ready.take p.maxStrobe).drop (p.strobe - 1)).findIdx? id with
    | some i => (p.strobe + i, true)
    | none => (p.maxStrobe, false)
  | .fixed => (p.strobe, true)
  | .unset => (p.strobe, true)

/-- The access outcome (R27). -/
def Profile.outcome (p : Profile) (ready : List Bool) (deferred : Bool) : Outcome :=
  if deferred then .defer else if (p.strobeEnd ready).2 then .ok else .noReady

/-- The duration of an access in bus periods (R28). -/
def Profile.duration (p : Profile) (ready : List Bool) : Nat := p.setup + (p.strobeEnd ready).1 + p.hold

/-! ## The holder's part of an access end (R53, R54, R56, R74, R76, R78 to R82, R106, R107) -/

/-- How the turn goes on (R22). -/
inductive TurnNext where
  | goOn (t : Turn)
  | wait
  | stop
deriving DecidableEq, Repr

/-- What the holder made of an outcome: the state, how the turn goes on, whether the request was exhausted (R57), and
the watch notices (R110, R112). -/
structure TurnResult where
  state : State
  next : TurnNext
  exhausted : Bool
  notices : List NoticeContent

/-- The deadline has passed (R54, R58). -/
def LinkEntry.deadlinePassed (e : LinkEntry) (now : Nat) : Bool :=
  match e.deadline with
  | none => false
  | some d => d.passed || decide (d.time ≤ now)

/-- The value read so far after an OK access: a read adds its byte or halfword (R53, R74). -/
def SeqStep.gather (st : SeqStep) (lane : Lane) (i : Nat) (held : Value) (lines : BusData) : Value :=
  match st.dirAt lane i with
  | .read => held ||| (st.pieceAt lane i).sample lines
  | .write => held

/-- The turn stops with the entry's completion. -/
def State.stopWith (s : State) (e : LinkEntry) (status : Status) (exhausted : Bool) : TurnResult :=
  { state := s.complete e status, next := .stop, exhausted := exhausted, notices := [] }

/-- The entry of a turn after the last access of unit or step `st` ended OK (R53, R62, R63, R78, R81). -/
def State.unitDone (s : State) (e : LinkEntry) (t : Turn) (st : SeqStep) (held : Value) : TurnResult :=
  let e' := { e with retryCount := 0, accessIndex := 0, held := 0, done := e.done + 1,
                     results := e.results ++ st.result held }
  if st.mismatches held then s.stopWith e' .mismatch false
  else if e.request.size ≤ e'.done then s.stopWith e' .ok false
  else if e.stopRequested then s.stopWith e' .aborted false
  else { state := s.updateEntry e', next := .goOn t, exhausted := false, notices := [] }

/-- A deferred access of a link entry (R54, R56, R57). -/
def State.deferral (s : State) (e : LinkEntry) : TurnResult :=
  let f := (s.window e.window).fields
  let e' := { e with retryCount := e.retryCount + 1 }
  if f.retryLimit < e'.retryCount then s.stopWith e' .deferExhausted true
  else if e.request.isSequence then
    { state := s.updateEntry e', next := .wait, exhausted := false, notices := [] }
  else if e.stopRequested then s.stopWith e' .aborted false
  else if e.deadlinePassed s.now then s.stopWith e' .expired false
  else
    { state := s.updateEntry { e' with state := .deferred,
                                       retryTime := some (s.now + f.retryBackoff * Config.perMicro) },
      next := .stop, exhausted := false, notices := [] }

/-- A link entry takes the outcome of an access of its turn (R53). -/
def State.linkTakes (s : State) (e : LinkEntry) (t : Turn) (o : Outcome) (lines : BusData) : TurnResult :=
  match o with
  | .noReady => s.stopWith e .noReady false
  | .defer => s.deferral e
  | .ok =>
    match e.request.workAt e.done with
    | none => s.stopWith e .ok false
    | some st =>
      let lane := (s.window e.window).fields.lane
      let held := st.gather lane e.accessIndex e.held lines
      if e.accessIndex + 1 < st.accesses lane then
        { state := s.updateEntry { e with retryCount := 0, accessIndex := e.accessIndex + 1, held := held },
          next := .goOn t, exhausted := false, notices := [] }
      else s.unitDone e t st held

/-- The end of a poll turn: the entry counts it, its request leaves the poll queue, and an OK value is evaluated
(R107, R108). -/
def State.pollEnds (s : State) (id : WatchId) (x : WatchEntry) (o : Outcome) (v : Value) : TurnResult :=
  let counted := x.countPoll o
  let judged :=
    match o with
    | .ok => counted.evaluate v
    | .noReady => (counted, .none)
    | .defer => (counted, .none)
  { state := { s.setWatch id (some judged.1) with pollQueue := s.pollQueue.filter (fun y => y ≠ id) },
    next := .stop, exhausted := false, notices := judged.1.reportNotice id v judged.2 }

/-- A poll request takes the outcome of an access of its turn (R106). -/
def State.pollTakes (s : State) (id : WatchId) (x : WatchEntry) (t : Turn) (o : Outcome) (lines : BusData) :
    TurnResult :=
  let lane := (s.window t.window).fields.lane
  let st := x.config.work
  let held := st.gather lane t.pollIndex t.pollHeld lines
  match o with
  | .ok =>
    if t.pollIndex + 1 < st.accesses lane then
      { state := s, next := .goOn { t with pollIndex := t.pollIndex + 1, pollHeld := held }, exhausted := false,
        notices := [] }
    else s.pollEnds id x .ok held
  | .noReady => s.pollEnds id x .noReady 0
  | .defer => s.pollEnds id x .defer 0

/-- The holder takes the outcome (R22, R29). A dropped holder's share is discarded and its turn ends. -/
def State.holderTakes (s : State) (t : Turn) (o : Outcome) (lines : BusData) : TurnResult :=
  let discarded : TurnResult := { state := s, next := .stop, exhausted := false, notices := [] }
  match t.holder with
  | .link tag =>
    match s.entryOf tag with
    | none => discarded
    | some e => s.linkTakes e t o lines
  | .poll id =>
    match s.watchOf id with
    | none => discarded
    | some x => s.pollTakes id x t o lines
  | .dropped => discarded

/-- The release-gap record at the end of an access (R32). -/
def Access.gapAfter (a : Access) : Option GapRecord :=
  match a.dir with
  | .write => none
  | .read =>
    if 1 ≤ a.profile.releaseGap then some { select := a.select, remaining := a.profile.releaseGap } else none

/-- The turn goes on, waits out the retry backoff with the bus held (R34), or ends (R23). -/
def State.continueTurn (s : State) (t : Turn) (next : TurnNext) : State :=
  match next with
  | .goOn t' => s.startNext t'
  | .wait =>
    { s with
      bus := { s.bus with state := .retryWait ((s.window t.window).fields.retryBackoff * Config.perMicro) } }
  | .stop => s.endTurn

/-- The outcome of an access goes to the turn holder, to the window's health and to its statistics, as one event, with
the notices it causes (R29); and how the turn goes on. -/
def State.deliver (s : State) (a : Access) (t : Turn) (o : Outcome) (lines : BusData) : State × TurnNext :=
  let closed := { s with bus := { s.bus with gapRecord := a.gapAfter } }
  let r := (closed.countOutcome a.window o).holderTakes t o lines
  let counted := if r.exhausted then r.state.countExhaustion a.window else r.state
  let judged := counted.judgeAll a.window o r.exhausted
  let noted := judged.1.enterNotices (orderNotices s.freeCount judged.2 r.notices)
  ({ noted with freeCount := s.freeCount + 1 }, r.next)

/-- The end of an access: its outcome is delivered (R29), and the turn goes on or ends. -/
def State.accessEnd (s : State) (ready : List Bool) (deferred : Bool) (lines : BusData) : State :=
  match s.bus.state, s.bus.turn with
  | .access a, some t =>
    let d := s.deliver a t (a.profile.outcome ready deferred) lines
    d.1.continueTurn t d.2
  | _, _ => s

/-! ## The pins of the local bus (R41)

READY is an input: the levels it has had at the ends of the strobe periods of the current access are an argument,
`ready`, in the form that ACCESS_END gives them (notes/assumptions/16.md). -/

/-- The local bus outputs while they are driven. A data byte that is not driven is none; a select line that is asserted
is named; a strobe or a byte enable is true when asserted. -/
structure Drive where
  address : Nat
  dataLow : Option Byte
  dataHigh : Option Byte
  select : Option Nat
  rd : Bool
  wr : Bool
  lben : Bool
  hben : Bool
deriving DecidableEq, Repr

structure Pins where
  /-- None: address, data, select, strobe and enable lines are released. -/
  drive : Option Drive
  /-- LGNTn is asserted. -/
  lgnt : Bool
deriving DecidableEq, Repr

/-- The strobe of an access is asserted from the end of the setup to the end of the strobe (R24 to R27, R41). -/
def Access.strobe (a : Access) (ready : List Bool) : Bool :=
  decide (a.profile.setup ≤ a.elapsed) && decide (a.elapsed < a.profile.setup + (a.profile.strobeEnd ready).1)

/-- The bus driven with nothing asserted (R21, R41). -/
def Drive.quiet (address : Nat) : Drive :=
  { address := address, dataLow := none, dataHigh := none, select := none, rd := false, wr := false, lben := false,
    hben := false }

/-- The bus driven in an access (R24, R41). -/
def Access.drive (a : Access) (ready : List Bool) : Drive :=
  let writes := decide (a.dir = .write)
  { address := a.address,
    dataLow := if writes && a.lowLane then some (a.data.setWidth 8) else none,
    dataHigh := if writes && a.highLane then some ((a.data >>> 8).setWidth 8) else none,
    select := some a.select,
    rd := !writes && a.strobe ready,
    wr := writes && a.strobe ready,
    lben := a.lowLane, hben := a.highLane }

/-- The pin levels of R41; while RSTn is asserted everything is released and LGNTn is withdrawn (R40). -/
def State.pins (s : State) (ready : List Bool) : Pins :=
  match s.phase with
  | .inReset _ => { drive := none, lgnt := false }
  | .running =>
    match s.bus.state with
    | .idle => { drive := some (.quiet s.bus.lastAddress), lgnt := false }
    | .access a => { drive := some (a.drive ready), lgnt := false }
    | .gap => { drive := some (.quiet s.bus.lastAddress), lgnt := false }
    | .retryWait _ => { drive := some (.quiet s.bus.lastAddress), lgnt := false }
    | .lent => { drive := none, lgnt := true }
    | .reclaim _ => { drive := none, lgnt := false }

end Sys2Proof.Machine
end

