-- ==== Sys2Proof/Machine/Tracker.lean ====
section
/-! DEFINITION. The parts of the request tracker that its request kinds share: the tag table (R145), refusals (R147),
acceptance (R44, R149), execution of engine kinds (R150), and the answers of immediate kinds (R152). -/

namespace Sys2Proof.Machine

/-- The body of a refusal of a new tagged request: a bus request carries its progress byte 00h (R147, R171). -/
def refusalBody (kind : Kind) (status : Status) : List Byte :=
  if kind.isBus then [status.code, 0x00#8] else [status.code]

/-- A refusal is the request's answer (R147). -/
def State.refuse (s : State) (kind : Kind) (t : Tag) (tagByte : Byte) (status : Status) : State :=
  s.store t (phaseOf tagByte) { kind := replyKind kind.code, tagByte := tagByte, body := refusalBody kind status }

/-- An engine request is executed: the tag is DONE with the reply of the execution (R150). -/
def State.executed (s : State) (kind : Kind) (t : Tag) (tagByte : Byte) (contents : List Byte) : State :=
  s.store t (phaseOf tagByte)
    { kind := replyKind kind.code, tagByte := tagByte, body := Status.ok.code :: contents }

/-- The deadline of a request accepted now (R44): none when the queue lifetime is 0. -/
def State.newDeadline (s : State) : Option Deadline :=
  if s.timing.lifetime = 0 then none
  else some { time := s.now + s.timing.lifetime * Config.perMilli, passed := false }

/-- The entry of a request at its acceptance (R44). -/
def State.newEntry (s : State) (t : Tag) (tagByte : Byte) (w : WinId) (r : LinkRequest) : LinkEntry :=
  { tag := t, phase := phaseOf tagByte, force := forceOf tagByte, window := w, request := r,
    deadline := s.newDeadline, state := .waiting, retryCount := 0, retryTime := none, stopRequested := false,
    done := 0, accessIndex := 0, held := 0, results := [] }

/-- Acceptance (R44, R149): the entry joins the queue and its tag becomes PENDING, one event. -/
def State.accept (s : State) (t : Tag) (tagByte : Byte) (w : WinId) (r : LinkRequest) : State :=
  { s with queue := s.queue ++ [s.newEntry t tagByte w r] }.setTag t (.pending (phaseOf tagByte))

/-- The queue has no room (R44, R146 order 4). -/
def State.queueFull (s : State) : Bool := decide (Config.queueCapacity ≤ s.queue.length)

/-- A DONE tag taken by the other phase: its reply is discarded and it is unlisted (R145). -/
def State.clearTag (s : State) (t : Tag) : State :=
  { s with
    tracker := { s.tracker with tags := s.tracker.tags.set t .empty,
                                outgoing := s.tracker.outgoing.filter (fun x => x ≠ t) } }

/-- A retransmission under a PENDING tag is ignored and counted (R145). -/
def State.countDuplicate (s : State) : State :=
  { s with tracker := { s.tracker with duplicates := satInc Config.max16 s.tracker.duplicates } }

/-- A frame of a tagged kind (R144, R145). `new` takes it as a new request. -/
def State.tagged (s : State) (kind : Kind) (tagByte : Byte) (new : Tag → State → State) : State :=
  match tagOf? tagByte with
  | none => s.answer kind.code tagByte .badTag []
  | some t =>
    match s.tagOf t with
    | .empty => new t s
    | .pending phase =>
      if phase = phaseOf tagByte then s.countDuplicate else s.answer kind.code tagByte .tagBusy []
    | .done phase _ => if phase = phaseOf tagByte then s.list t else new t (s.clearTag t)

/-- FORCE is a spare bit on every tagged kind but the bus requests (R146, R148). -/
def plainTagByte (tagByte : Byte) : Bool := spareClear tagByte && !forceOf tagByte

end Sys2Proof.Machine
end

