-- ==== Sys2Proof/Machine/BusRequests.lean ====
section
/-! DEFINITION. READ, WRITE and SEQUENCE at the tracker: validation at acceptance (R10, R71). -/

namespace Sys2Proof.Machine

/-- Every unit address is a multiple of its unit size (R10). -/
def LinkRequest.aligned (r : LinkRequest) : Bool := r.works.all (fun st => decide (st.address % st.unit.bytes = 0))

/-- The rights a bus request needs (R4). -/
def LinkRequest.permittedBy (r : LinkRequest) (rights : Rights) : Bool :=
  r.works.all (fun st => st.op.permittedBy rights)

/-- Every byte of every unit lies in the window (R10). -/
def LinkRequest.inside (r : LinkRequest) (x : Window) : Bool :=
  r.works.all (fun st => x.containsUnit st.address st.unit)

/-- Check 6 of R71 fails with BAD_SEQUENCE for a SEQUENCE and UNMAPPED for a READ or WRITE. -/
def LinkRequest.outsideStatus (r : LinkRequest) : Status := if r.isSequence then .badSequence else .unmapped

/-- The window of the first unit (R8, R71 check 3). -/
def State.firstWindow (s : State) (r : LinkRequest) : Option WinId :=
  match r.workAt 0 with
  | none => none
  | some st => s.decode st.address

/-- Checks 3 to 8 of R71, in their order; the window the request binds to when all pass. -/
def State.checkBus (s : State) (force : Bool) (r : LinkRequest) : Except Status WinId :=
  match s.firstWindow r with
  | none => .error .unmapped
  | some w =>
    let x := s.window w
    if !r.permittedBy x.fields.rights then .error .accessDenied
    else if !r.aligned then .error .misaligned
    else if !r.inside x then .error r.outsideStatus
    else if !force && decide (x.health.state = .failed) then .error .windowFailed
    else if s.queueFull then .error .queueFull
    else .ok w

/-- A new bus request whose length and fields have been read (R71, R146). -/
def State.newBus (s : State) (kind : Kind) (t : Tag) (tagByte : Byte) (r : Except Status LinkRequest) : State :=
  match r with
  | .error status => s.refuse kind t tagByte status
  | .ok request =>
    match s.checkBus (forceOf tagByte) request with
    | .error status => s.refuse kind t tagByte status
    | .ok w => s.accept t tagByte w request

/-- A READ frame at the tracker (R68, R71). -/
def takeRead (tagByte : Byte) (body : List Byte) (s : State) : State :=
  s.tagged .read tagByte fun t s => s.newBus .read t tagByte (readRead (spareClear tagByte) body)

/-- A WRITE frame at the tracker (R69, R71). -/
def takeWrite (tagByte : Byte) (body : List Byte) (s : State) : State :=
  s.tagged .write tagByte fun t s => s.newBus .write t tagByte (readWrite (spareClear tagByte) body)

/-- A SEQUENCE frame at the tracker (R70, R71). -/
def takeSequence (tagByte : Byte) (body : List Byte) (s : State) : State :=
  s.tagged .sequence tagByte fun t s => s.newBus .sequence t tagByte (readSequence (spareClear tagByte) body)

end Sys2Proof.Machine
end

