-- ==== Sys2Proof/Machine/Notices.lean ====
section
/-! DEFINITION. NOTICE_ACK at the tracker, and the expiry of the resend timer (R135 to R139). -/

namespace Sys2Proof.Machine

/-- The records after the first one numbered `n`: what a cumulative acknowledgement leaves (R138). -/
def afterNumber (n : Nat) : List Notice → List Notice
  | [] => []
  | x :: rest => if x.number = n then rest else afterNumber n rest

/-- The notice whose resend timer starts only at the end of the frame in transmission, its first (R139). -/
def State.timerAtFrameEnd (s : State) : Option Nat :=
  s.tx.frame.bind fun f => if f.timerAtEnd then f.notice else none

/-- The oldest-notice state after an acknowledgement that removed notices (R138). The timer starts for a new oldest that
is sent, but for the notice `waits`, whose timer waits for the end of its first frame (R139). -/
def NoticeUnit.acknowledge (u : NoticeUnit) (n periods : Nat) (waits : Option Nat) : NoticeUnit :=
  let queue := afterNumber n u.queue
  { u with
    queue := queue, resendDue := false, resendCount := 0,
    resendTimer :=
      match queue with
      | [] => none
      | oldest :: _ => if oldest.sent = true ∧ waits ≠ some oldest.number then some periods else none }

/-- A NOTICE_ACK frame at the tracker (R138). -/
def takeNoticeAck (tagByte : Byte) (body : List Byte) (s : State) : State :=
  match readNoticeAck (spareClear tagByte) body with
  | .error status => s.answer Kind.noticeAck.code tagByte status []
  | .ok n =>
    if s.notices.queue.any (fun x => x.number = n) then
      let u := s.notices.acknowledge n s.resendTime s.timerAtFrameEnd
      { s with notices := u }.answer Kind.noticeAck.code tagByte .ok
        (be1 (s.notices.queue.length - u.queue.length))
    else s.answer Kind.noticeAck.code tagByte .ackUnknown (be1 0)

/-- The expiry of a running resend timer (R135): resend due is set, or DEAF is entered. -/
def NoticeUnit.expire (u : NoticeUnit) (limit : Nat) : NoticeUnit :=
  match u.resendTimer with
  | none => u
  | some _ =>
    if u.resendCount < limit then
      { u with resendCount := u.resendCount + 1, resendDue := true, resendTimer := none }
    else { u with link := .deaf, resendDue := false, resendTimer := none }

/-- RESEND_TIMER_EXPIRY (R135). -/
def State.resendExpiry (s : State) : State := { s with notices := s.notices.expire s.timing.resendLimit }

end Sys2Proof.Machine
end

