-- ==== Sys2Proof/Machine/Session.lean ====
section
/-! DEFINITION. TIMING_SET, STATUS, IDENTIFY, ABORT and RESTART at the tracker (R60 to R63, R151 to R156), and the
timed events of queue entries (R55, R58). -/

namespace Sys2Proof.Machine

/-- A new TIMING_SET (R151). -/
def State.newTimingSet (s : State) (t : Tag) (tagByte : Byte) (r : Except Status Timing) : State :=
  match r with
  | .error status => s.refuse .timingSet t tagByte status
  | .ok timing => { s with timing := timing }.executed .timingSet t tagByte timing.toBytes

/-- A TIMING_SET frame at the tracker (R151). -/
def takeTimingSet (tagByte : Byte) (body : List Byte) (s : State) : State :=
  s.tagged .timingSet tagByte fun t s =>
    s.newTimingSet t tagByte (readTimingSet (plainTagByte tagByte) s.timing body)

/-- The contents of a STATUS reply from offset 1 (R154, R171). `prior` is the notice link state just before the
arrival of the STATUS frame. -/
def State.statusBytes (s : State) (prior : LinkState) : List Byte :=
  be1 s.queue.length ++ be1 s.pollQueue.length ++ be1 s.notices.queue.length ++ be2 s.notices.lost ++
  be1 prior.code ++ be1 s.bus.state.code ++ be4 s.bus.lendCount ++ be2 s.rx.badCrc ++ be2 s.rx.oversize ++
  be2 s.rx.truncated ++ be2 s.tracker.duplicates ++ be2 s.tracker.drops

/-- A STATUS frame at the tracker (R154). -/
def takeStatus (tagByte : Byte) (body : List Byte) (prior : LinkState) (s : State) : State :=
  match readEmpty (spareClear tagByte) body with
  | .error status => s.answer Kind.status.code tagByte status []
  | .ok _ => s.answer Kind.status.code tagByte .ok (s.statusBytes prior)

/-- An IDENTIFY frame at the tracker (R155). -/
def takeIdentify (tagByte : Byte) (body : List Byte) (s : State) : State :=
  match readEmpty (spareClear tagByte) body with
  | .error status => s.answer Kind.identify.code tagByte status []
  | .ok _ => s.answer Kind.identify.code tagByte .ok identifyBytes

/-! ## ABORT (R60 to R63) -/

/-- The entry's turn is in a GAP before its first access (R62, R63). -/
def State.gapTurnOf (s : State) (t : Tag) : Bool :=
  match s.bus.state, s.bus.turn with
  | .gap, some turn => decide (turn.holder = .link t)
  | _, _ => false

/-- An ABORT acts on the entry of its target (R61 to R63; R16 for a window request). -/
def State.abortEntry (s : State) (e : LinkEntry) : State :=
  match e.state with
  | .waiting => s.complete e .aborted
  | .deferred => s.complete e .aborted
  | .active =>
    if s.gapTurnOf e.tag && decide (e.accessIndex = 0) then s.endTurn.complete e .aborted
    else s.updateEntry { e with stopRequested := true }

/-- An ABORT frame at the tracker (R60). -/
def takeAbort (tagByte : Byte) (body : List Byte) (s : State) : State :=
  match readAbort (spareClear tagByte) body with
  | .error status => s.answer Kind.abort.code tagByte status []
  | .ok target =>
    match s.entryOf target with
    | none => s.answer Kind.abort.code tagByte .notFound []
    | some e => (s.abortEntry e).answer Kind.abort.code tagByte .ok []

/-! ## RESTART (R156) -/

/-- A link turn in service at RESTART (R38): an access runs to its end without a holder, a GAP before the first access
or a RETRY_WAIT ends at once. A poll turn is not touched. -/
def State.cutLinkTurn (s : State) : State :=
  match s.bus.turn with
  | none => s
  | some t =>
    match t.holder with
    | .link _ =>
      match s.bus.state with
      | .access _ => { s with bus := { s.bus with turn := some { t with holder := .dropped } } }
      | _ => s.endTurn
    | .poll _ => s
    | .dropped => s

/-- What RESTART does to every block (R156), before its own reply is placed. -/
def State.restarted (s : State) : State :=
  { s.cutLinkTurn with
    queue := [], tracker := .reset,
    rx := { s.rx with badCrc := 0, oversize := 0, truncated := 0 },
    notices := { s.notices with link := .live, resendCount := 0 } }

/-- A RESTART frame at the tracker (R156). -/
def takeRestart (tagByte : Byte) (body : List Byte) (s : State) : State :=
  match readEmpty (spareClear tagByte) body with
  | .error status => s.answer Kind.restart.code tagByte status []
  | .ok _ => s.restarted.answer Kind.restart.code tagByte .ok (be1 s.queue.length)

/-! ## Timed events of queue entries -/

/-- BACKOFF_END (R55): the entry stays DEFERRED and becomes eligible. -/
def State.backoffEnd (s : State) (t : Tag) : State :=
  match s.entryOf t with
  | none => s
  | some e => if e.state = .deferred then s.updateEntry { e with retryTime := none } else s

/-- DEADLINE (R58): a WAITING or DEFERRED entry completes EXPIRED, an ACTIVE one keeps the passed deadline (R54). An
entry without a deadline has none that passes. -/
def State.deadlinePasses (s : State) (t : Tag) : State :=
  match s.entryOf t with
  | none => s
  | some e =>
    match e.deadline with
    | none => s
    | some d =>
      match e.state with
      | .waiting => s.complete e .expired
      | .deferred => s.complete e .expired
      | .active => s.updateEntry { e with deadline := some { d with passed := true } }

end Sys2Proof.Machine
end

