-- ==== Sys2Proof/Machine/Statistics.lean ====
section
/-! DEFINITION. COUNTERS_READ, COUNTERS_CLEAR and HISTORY_READ at the tracker, and the interval end (R119 to R128). -/

namespace Sys2Proof.Machine

/-- The contents of a COUNTERS_READ reply from offset 1 (R126, R171). -/
def State.counterBytes (s : State) (w : WinId) : List Byte :=
  let x := s.statsOf w
  be1 w.val ++ be4 s.intervalNumber ++ (s.window w).health.toBytes ++ x.counters.toBytes ++ x.tallies.toBytes ++
  be1 (flagBit x.failedSeen 1) ++ be1 x.ring.length

/-- A COUNTERS_READ frame at the tracker (R126). -/
def takeCountersRead (tagByte : Byte) (body : List Byte) (s : State) : State :=
  match readWindow (spareClear tagByte) body with
  | .error status => s.answer Kind.countersRead.code tagByte status []
  | .ok w =>
    if (s.window w).isOpen then s.answer Kind.countersRead.code tagByte .ok (s.counterBytes w)
    else s.answer Kind.countersRead.code tagByte .windowClosed []

/-- A new COUNTERS_CLEAR (R127): the seven running counters become 0, everything else is kept. -/
def State.newCountersClear (s : State) (t : Tag) (tagByte : Byte) (r : Except Status WinId) : State :=
  match r with
  | .error status => s.refuse .countersClear t tagByte status
  | .ok w =>
    if (s.window w).isOpen then
      (s.setStats w { s.statsOf w with counters := .zero }).executed .countersClear t tagByte []
    else s.refuse .countersClear t tagByte .windowClosed

/-- A COUNTERS_CLEAR frame at the tracker (R127). -/
def takeCountersClear (tagByte : Byte) (body : List Byte) (s : State) : State :=
  s.tagged .countersClear tagByte fun t s => s.newCountersClear t tagByte (readWindow (plainTagByte tagByte) body)

/-- The records a HISTORY_READ returns, newest first (R128). -/
def WindowStats.newest (x : WindowStats) (count : Nat) : List Record := x.ring.reverse.take count

/-- A HISTORY_READ frame at the tracker (R128). -/
def takeHistoryRead (tagByte : Byte) (body : List Byte) (s : State) : State :=
  match readHistory (spareClear tagByte) body with
  | .error status => s.answer Kind.historyRead.code tagByte status []
  | .ok (w, count) =>
    if (s.window w).isOpen then
      let records := (s.statsOf w).newest count
      s.answer Kind.historyRead.code tagByte .ok
        (be1 records.length ++ (records.map Record.toBytes).flatten)
    else s.answer Kind.historyRead.code tagByte .windowClosed []

/-! ## The interval end (R119 to R123) -/

/-- The interval number moves on: 1 follows FFFFFFFFh (R119). -/
def nextInterval (n : Nat) : Nat := if n < Config.max32 then n + 1 else 1

/-- A record joins the ring as the newest; a full ring loses its oldest (R121). -/
def pushRecord (ring : List Record) (r : Record) : List Record :=
  if ring.length < Config.ringCapacity then ring ++ [r] else ring.tail ++ [r]

/-- The interval counters go up by the flags of a record (R122). -/
def Counters.countRecord (c : Counters) (r : Record) : Counters :=
  { c with
    erroredIntervals := if r.errored then satInc Config.max32 c.erroredIntervals else c.erroredIntervals,
    severeIntervals := if r.severe then satInc Config.max32 c.severeIntervals else c.severeIntervals,
    unavailableIntervals :=
      if r.unavailable then satInc Config.max32 c.unavailableIntervals else c.unavailableIntervals }

/-- The record an OPEN window closes at the interval end numbered `number` (R120). -/
def State.closing (s : State) (w : WinId) (number : Nat) : Record :=
  Record.build number (s.window w).fields.severeThreshold (s.statsOf w).tallies (s.statsOf w).failedSeen

/-- The statistics of a window after the interval end (R121 to R123); a CLOSED window's stay (R120). -/
def State.closeInterval (s : State) (number : Nat) (w : WinId) : WindowStats :=
  if (s.window w).isOpen then
    { counters := (s.statsOf w).counters.countRecord (s.closing w number), tallies := .zero,
      failedSeen := decide ((s.window w).health.state = .failed),
      ring := pushRecord (s.statsOf w).ring (s.closing w number) }
  else s.statsOf w

/-- The INTERVAL_SEVERE notice of a window, if its record is severe and its flag is on (R122, R131). -/
def State.severeNotice (s : State) (number : Nat) (w : WinId) : List NoticeContent :=
  if (s.window w).isOpen && (s.closing w number).severe && (s.window w).fields.notifySevere then
    [{ kind := .intervalSevere, subject := w.val,
       data := be4 number ++ be4 (s.closing w number).tallies.failures }]
  else []

/-- INTERVAL_END (R119 to R123): one event for all windows, its notices in increasing window number. -/
def State.intervalEnd (s : State) : State :=
  let number := nextInterval s.intervalNumber
  { s with
    intervalNumber := number, stats := Vector.ofFn (s.closeInterval number),
    intervalTimer := s.timing.interval * Config.perSecond }.enterNotices
    (WinId.all.flatMap (s.severeNotice number))

end Sys2Proof.Machine
end

