-- ==== Sys2Proof/Machine/WatchList.lean ====
section
/-! DEFINITION. WATCH_SET, WATCH_DROP and WATCH_QUERY at the tracker, and the poll tick (R98 to R104). -/

namespace Sys2Proof.Machine

/-- Checks 2 to 5 of R98; none when all pass. -/
def State.checkWatch (s : State) (id : WatchId) (c : WatchConfig) : Option Status :=
  if (s.watchOf id).isSome then some .slotInUse
  else
    match s.decode c.address with
    | none => some .unmapped
    | some w =>
      if !(s.window w).fields.rights.permitsRead then some .accessDenied
      else if c.address % c.unit.bytes ≠ 0 then some .misaligned
      else none

/-- The entry a WATCH_SET puts in use (R98). -/
def WatchEntry.fresh (c : WatchConfig) : WatchEntry :=
  { config := c, countdown := 1,
    state := match c.mode with
      | .matches => .quiet
      | .differ => .quiet
      | .track => .notSet
    stored := none, outstanding := false, pollsDone := 0, pollFaults := 0, pollDeferrals := 0, overruns := 0 }

/-- A new WATCH_SET (R98). -/
def State.newWatchSet (s : State) (t : Tag) (tagByte : Byte) (r : Except Status (WatchId × WatchConfig)) : State :=
  match r with
  | .error status => s.refuse .watchSet t tagByte status
  | .ok (id, c) =>
    match s.checkWatch id c with
    | some status => s.refuse .watchSet t tagByte status
    | none => (s.setWatch id (some (.fresh c))).executed .watchSet t tagByte []

/-- A WATCH_SET frame at the tracker (R98). -/
def takeWatchSet (tagByte : Byte) (body : List Byte) (s : State) : State :=
  s.tagged .watchSet tagByte fun t s => s.newWatchSet t tagByte (readWatchSet (plainTagByte tagByte) body)

/-- The turn of a poll request that is dropped (R39, R100): in a GAP it ends at once, in an access it runs to the
access's end without a holder. -/
def State.orphanPoll (s : State) (id : WatchId) : State :=
  match s.bus.turn with
  | none => s
  | some t =>
    if t.holder = .poll id then
      match s.bus.state with
      | .gap => s.endTurn
      | _ => { s with bus := { s.bus with turn := some { t with holder := .dropped } } }
    else s

/-- A watch entry is freed, with its poll request (R100). -/
def State.dropWatch (s : State) (id : WatchId) : State :=
  { s.setWatch id none with pollQueue := s.pollQueue.filter (fun y => y ≠ id) }.orphanPoll id

/-- A new WATCH_DROP (R100). -/
def State.newWatchDrop (s : State) (t : Tag) (tagByte : Byte) (r : Except Status WatchId) : State :=
  match r with
  | .error status => s.refuse .watchDrop t tagByte status
  | .ok id =>
    match s.watchOf id with
    | none => s.refuse .watchDrop t tagByte .slotEmpty
    | some _ => (s.dropWatch id).executed .watchDrop t tagByte []

/-- A WATCH_DROP frame at the tracker (R100). -/
def takeWatchDrop (tagByte : Byte) (body : List Byte) (s : State) : State :=
  s.tagged .watchDrop tagByte fun t s => s.newWatchDrop t tagByte (readWatchId (plainTagByte tagByte) body)

/-- A WATCH_QUERY frame at the tracker (R101). -/
def takeWatchQuery (tagByte : Byte) (body : List Byte) (s : State) : State :=
  match readWatchId (spareClear tagByte) body with
  | .error status => s.answer Kind.watchQuery.code tagByte status []
  | .ok id =>
    match s.watchOf id with
    | none => s.answer Kind.watchQuery.code tagByte .slotEmpty []
    | some x =>
      s.answer Kind.watchQuery.code tagByte .ok
        (x.toBytes id.val (((s.watchWindow id).map Fin.val).getD 0))

/-! ## The poll tick (R102, R103) -/

/-- The entry's countdown reaches 0 at this tick (R103). -/
def WatchEntry.fallsDue (x : WatchEntry) : Bool := decide (x.countdown - 1 = 0)

/-- An in-use entry at a poll tick (R103): counted down, and at its fall-due reloaded, with its outstanding flag set or
an overrun counted. -/
def WatchEntry.tick (x : WatchEntry) : WatchEntry :=
  if x.fallsDue then
    { x with countdown := x.config.period, outstanding := true,
             overruns := if x.outstanding then satInc Config.max32 x.overruns else x.overruns }
  else { x with countdown := x.countdown - 1 }

/-- The entries that enter a poll request at this tick, in increasing id order (R103). -/
def State.newPolls (s : State) : List WatchId :=
  WatchId.all.filter fun id =>
    match s.watchOf id with
    | none => false
    | some x => x.fallsDue && !x.outstanding

/-- POLL_TICK (R102, R103): the next tick starts at once with the poll tick in force. -/
def State.pollTick (s : State) : State :=
  { s with
    watch := s.watch.map (fun x => x.map WatchEntry.tick),
    pollQueue := s.pollQueue ++ s.newPolls,
    pollTimer := s.timing.pollTick * Config.perMilli }

end Sys2Proof.Machine
end

