-- ==== Sys2Proof/Machine/Windows.lean ====
section
/-! DEFINITION. WINDOW_SET, WINDOW_CLOSE and WINDOW_QUERY at the tracker, and a window request taking effect (R14 to
R20). -/

namespace Sys2Proof.Machine

/-- A new window request whose fields have been read (R14, R15): queued bound to the window it names, or refused. -/
def State.newWindowRequest (s : State) (kind : Kind) (t : Tag) (tagByte : Byte)
    (r : Except Status (WinId × LinkRequest)) : State :=
  match r with
  | .error status => s.refuse kind t tagByte status
  | .ok (w, request) => if s.queueFull then s.refuse kind t tagByte .queueFull else s.accept t tagByte w request

/-- A WINDOW_SET frame at the tracker (R14). -/
def takeWindowSet (tagByte : Byte) (body : List Byte) (s : State) : State :=
  s.tagged .windowSet tagByte fun t s =>
    s.newWindowRequest .windowSet t tagByte
      (match readWindowSet (plainTagByte tagByte) body with
        | .error status => .error status
        | .ok (w, fields) => .ok (w, .windowSet fields))

/-- A WINDOW_CLOSE frame at the tracker (R15). -/
def takeWindowClose (tagByte : Byte) (body : List Byte) (s : State) : State :=
  s.tagged .windowClose tagByte fun t s =>
    s.newWindowRequest .windowClose t tagByte
      (match readWindow (plainTagByte tagByte) body with
        | .error status => .error status
        | .ok w => .ok (w, .windowClose))

/-- The number of link items bound to a window (R20). -/
def State.queuedOn (s : State) (w : WinId) : Nat := (s.queue.filter (fun e => decide (e.window = w))).length

/-- The contents of a WINDOW_QUERY reply from offset 1 (R20, R171). -/
def State.windowBytes (s : State) (w : WinId) : List Byte :=
  let x := s.window w
  be1 w.val ++ be1 (flagBit x.isOpen 1) ++ x.fields.toBytes ++ x.health.toBytes ++ be1 (s.queuedOn w) ++
  be1 (flagBit (s.blocked w) 1)

/-- A WINDOW_QUERY frame at the tracker (R20). -/
def takeWindowQuery (tagByte : Byte) (body : List Byte) (s : State) : State :=
  match readWindow (spareClear tagByte) body with
  | .error status => s.answer Kind.windowQuery.code tagByte status []
  | .ok w => s.answer Kind.windowQuery.code tagByte .ok (s.windowBytes w)

/-! ## Taking effect (R16 to R19) -/

/-- The new range shares a byte with another OPEN window (R9, R17 check 1). -/
def State.overlapsOther (s : State) (w : WinId) (f : WindowFields) : Bool :=
  WinId.all.any (fun v => decide (v ≠ w) && (s.window v).isOpen && f.overlaps (s.window v).fields)

/-- The in-use watch entries whose address decodes to the window (R17 check 2). -/
def State.watchersOf (s : State) (w : WinId) : List WatchConfig :=
  WatchId.all.filterMap fun id =>
    match s.watchOf id with
    | none => none
    | some x => if s.decode x.config.address = some w then some x.config else none

/-- A watch entry's unit lies wholly inside the new range (R17). -/
def WindowFields.holdsUnit (f : WindowFields) (c : WatchConfig) : Bool :=
  decide (f.base ≤ c.address) && decide (c.address + c.unit.bytes ≤ f.limit)

/-- The checks of R17, in their order; none when the request passes. -/
def State.windowCheck (s : State) (w : WinId) (r : LinkRequest) : Option Status :=
  match r with
  | .windowSet f =>
    if s.overlapsOther w f then some .overlap
    else if (s.watchersOf w).all (fun c => f.holdsUnit c && f.rights.permitsRead) then none
    else some .watchDepends
  | _ => if (s.watchersOf w).isEmpty then none else some .watchDepends

/-- The window entry after a window request that passed (R18, R19): health is HEALTHY with both runs 0. -/
def Window.after (x : Window) (r : LinkRequest) : Window :=
  match r with
  | .windowSet f => { isOpen := true, fields := f, health := .fresh }
  | _ => { isOpen := false, fields := x.fields, health := .fresh }

/-- A window request takes effect (R17 to R19): a failed check changes nothing but completes it. -/
def State.applyWindowRequest (s : State) (w : WinId) (e : LinkEntry) : State :=
  match s.windowCheck w e.request with
  | some status => s.complete e status
  | none => ((s.setWindow w ((s.window w).after e.request)).setStats w .zero).complete e .ok

/-- The window request that may take effect on a window now: the oldest unfinished item bound to it, the window not in
use (R16). -/
def State.readyRequest (s : State) (w : WinId) : Option LinkEntry :=
  match s.oldestOn w with
  | none => none
  | some e => if e.request.isBus || s.inUse w then none else some e

/-- WINDOW_REQUEST_TAKES_EFFECT (R16). -/
def State.takesEffect (s : State) (w : WinId) : State :=
  match s.readyRequest w with
  | none => s
  | some e => s.applyWindowRequest w e

end Sys2Proof.Machine
end

