-- ==== Sys2Proof/Machine/Arrivals.lean ====
section
/-! DEFINITION. The arrival of a good frame (R144, R166), and the meanings of the commands that are arrivals. -/

namespace Sys2Proof.Machine

/-- The tracker takes a frame by its KIND (R144). `prior` is the notice link state just before the arrival. -/
def State.take (s : State) (kind tagByte : Byte) (body : List Byte) (prior : LinkState) : State :=
  match Kind.ofByte? kind with
  | none => s.answer kind tagByte .unknownKind []
  | some .read => takeRead tagByte body s
  | some .write => takeWrite tagByte body s
  | some .sequence => takeSequence tagByte body s
  | some .windowSet => takeWindowSet tagByte body s
  | some .windowClose => takeWindowClose tagByte body s
  | some .windowQuery => takeWindowQuery tagByte body s
  | some .watchSet => takeWatchSet tagByte body s
  | some .watchDrop => takeWatchDrop tagByte body s
  | some .watchQuery => takeWatchQuery tagByte body s
  | some .countersRead => takeCountersRead tagByte body s
  | some .countersClear => takeCountersClear tagByte body s
  | some .historyRead => takeHistoryRead tagByte body s
  | some .timingSet => takeTimingSet tagByte body s
  | some .status => takeStatus tagByte body prior s
  | some .identify => takeIdentify tagByte body s
  | some .noticeAck => takeNoticeAck tagByte body s
  | some .abort => takeAbort tagByte body s
  | some .restart => takeRestart tagByte body s

/-- The DEAF exit, the first part of every arrival (R137, R166). -/
def State.hear (s : State) : State := { s with notices := s.notices.deafExit }

/-- One arrival (R166): the DEAF exit, then the tracker. -/
def State.arrive (s : State) (kind tagByte : Byte) (body : List Byte) : State :=
  s.hear.take kind tagByte body s.notices.link

/-- The arrival of a good frame as an event (R166). -/
def State.arrival (s : State) (kind tagByte : Byte) (body : List Byte) : State :=
  s.event fun s => s.arrive kind tagByte body

/-! ## The rows of spec/opcode_table.json that are arrivals -/

/-- READ (R68). -/
def execRead (tagByte : Byte) (body : List Byte) (s : State) : Host.Outcome State Fault Refusal :=
  .next (s.arrival Kind.read.code tagByte body)

/-- WRITE (R69). -/
def execWrite (tagByte : Byte) (body : List Byte) (s : State) : Host.Outcome State Fault Refusal :=
  .next (s.arrival Kind.write.code tagByte body)

/-- SEQUENCE (R70). -/
def execSequence (tagByte : Byte) (body : List Byte) (s : State) : Host.Outcome State Fault Refusal :=
  .next (s.arrival Kind.sequence.code tagByte body)

/-- WINDOW_SET (R14). -/
def execWindowSet (tagByte : Byte) (body : List Byte) (s : State) : Host.Outcome State Fault Refusal :=
  .next (s.arrival Kind.windowSet.code tagByte body)

/-- WINDOW_CLOSE (R15). -/
def execWindowClose (tagByte : Byte) (body : List Byte) (s : State) : Host.Outcome State Fault Refusal :=
  .next (s.arrival Kind.windowClose.code tagByte body)

/-- WINDOW_QUERY (R20). -/
def execWindowQuery (tagByte : Byte) (body : List Byte) (s : State) : Host.Outcome State Fault Refusal :=
  .next (s.arrival Kind.windowQuery.code tagByte body)

/-- WATCH_SET (R98). -/
def execWatchSet (tagByte : Byte) (body : List Byte) (s : State) : Host.Outcome State Fault Refusal :=
  .next (s.arrival Kind.watchSet.code tagByte body)

/-- WATCH_DROP (R100). -/
def execWatchDrop (tagByte : Byte) (body : List Byte) (s : State) : Host.Outcome State Fault Refusal :=
  .next (s.arrival Kind.watchDrop.code tagByte body)

/-- WATCH_QUERY (R101). -/
def execWatchQuery (tagByte : Byte) (body : List Byte) (s : State) : Host.Outcome State Fault Refusal :=
  .next (s.arrival Kind.watchQuery.code tagByte body)

/-- COUNTERS_READ (R126). -/
def execCountersRead (tagByte : Byte) (body : List Byte) (s : State) : Host.Outcome State Fault Refusal :=
  .next (s.arrival Kind.countersRead.code tagByte body)

/-- COUNTERS_CLEAR (R127). -/
def execCountersClear (tagByte : Byte) (body : List Byte) (s : State) : Host.Outcome State Fault Refusal :=
  .next (s.arrival Kind.countersClear.code tagByte body)

/-- HISTORY_READ (R128). -/
def execHistoryRead (tagByte : Byte) (body : List Byte) (s : State) : Host.Outcome State Fault Refusal :=
  .next (s.arrival Kind.historyRead.code tagByte body)

/-- TIMING_SET (R151). -/
def execTimingSet (tagByte : Byte) (body : List Byte) (s : State) : Host.Outcome State Fault Refusal :=
  .next (s.arrival Kind.timingSet.code tagByte body)

/-- STATUS (R154). -/
def execStatus (tagByte : Byte) (body : List Byte) (s : State) : Host.Outcome State Fault Refusal :=
  .next (s.arrival Kind.status.code tagByte body)

/-- IDENTIFY (R155). -/
def execIdentify (tagByte : Byte) (body : List Byte) (s : State) : Host.Outcome State Fault Refusal :=
  .next (s.arrival Kind.identify.code tagByte body)

/-- NOTICE_ACK (R138). -/
def execNoticeAck (tagByte : Byte) (body : List Byte) (s : State) : Host.Outcome State Fault Refusal :=
  .next (s.arrival Kind.noticeAck.code tagByte body)

/-- ABORT (R60). -/
def execAbort (tagByte : Byte) (body : List Byte) (s : State) : Host.Outcome State Fault Refusal :=
  .next (s.arrival Kind.abort.code tagByte body)

/-- RESTART (R156). -/
def execRestart (tagByte : Byte) (body : List Byte) (s : State) : Host.Outcome State Fault Refusal :=
  .next (s.arrival Kind.restart.code tagByte body)

/-- UNKNOWN_KIND (R144): a good frame of any KIND byte; well-formed only for an unlisted one. -/
def execUnknownKind (kind tagByte : Byte) (body : List Byte) (s : State) : Host.Outcome State Fault Refusal :=
  .next (s.arrival kind tagByte body)

end Sys2Proof.Machine
end

