-- ==== Sys2Proof/Machine/Link.lean ====
section
/-! DEFINITION. The link controller: the receiver with its rescan (R159 to R167), the end of a transmitted frame
(R169), and the level of TXD (R158). -/

namespace Sys2Proof.Machine

/-- The state of the frame receiver (R162). -/
inductive RxState where
  | hunt | length | collect
deriving DecidableEq, Repr

/-- The frame receiver's state, read off the held bytes (R162). -/
def Receiver.state (r : Receiver) : RxState :=
  match r.held with
  | [] => .hunt
  | [_] => .length
  | _ :: _ :: _ => .collect

/-- The bytes of a frame of LEN `n` (R160). -/
def frameLength (n : Nat) : Nat := n + 6

/-- The two CRC bytes of a whole frame are those of its covered bytes (R165). -/
def crcMatches (frame : List Byte) : Bool :=
  let covered := (frame.drop 1).take (frame.length - 3)
  decide (frame.drop (frame.length - 2) = be2 (crc16 covered).toNat)

def State.holdBytes (s : State) (held : List Byte) : State := { s with rx := { s.rx with held := held } }
def State.countOversize (s : State) : State :=
  { s with rx := { s.rx with oversize := satInc Config.max16 s.rx.oversize } }
def State.countBadCrc (s : State) : State :=
  { s with rx := { s.rx with badCrc := satInc Config.max16 s.rx.badCrc } }

/-- A good frame is handed over (R165, R166): the receiver is in HUNT when the arrival is taken, and a FREE transmitter
chooses after it (R168). -/
def State.handOver (s : State) (frame : List Byte) : State :=
  ((s.holdBytes []).arrive (frame.getD 2 0) (frame.getD 3 0) ((frame.drop 4).take (frame.length - 6))).transmit

/-- The bytes `input` reach the frame receiver in HUNT, in order (R162 to R165). Bytes before a SYNC are discarded. A
LEN above 240 discards the frame and hunting resumes after its SYNC. A frame that is not whole is held. A whole frame
is handed over, or discarded for its CRC and rescanned from the byte after its SYNC. Each turn of the recursion
consumes at least one byte, so `fuel` = the number of bytes is enough. -/
def State.scan (s : State) : Nat → List Byte → State
  | 0, _ => s.holdBytes []
  | fuel + 1, input =>
    match input.dropWhile (fun b => b ≠ Config.sync) with
    | [] => s.holdBytes []
    | [sync] => s.holdBytes [sync]
    | sync :: len :: rest =>
      if Config.maxBody < len.toNat then s.countOversize.scan fuel rest
      else if rest.length + 2 < frameLength len.toNat then s.holdBytes (sync :: len :: rest)
      else
        let frame := (sync :: len :: rest).take (frameLength len.toNat)
        if crcMatches frame then
          (s.handOver frame).scan fuel ((sync :: len :: rest).drop (frameLength len.toNat))
        else s.countBadCrc.scan fuel (len :: rest)

/-- A byte reaches the frame receiver behind the bytes it holds (R162): while a frame is collected the held bytes and
the new one are read as a run that starts at its SYNC. -/
def State.receive (s : State) (b : Byte) : State :=
  let input := s.rx.held ++ [b]
  s.scan (input.length + 1) input

/-- The gap timer after a byte from RXD (R164, R165): running from this byte's end in LENGTH and COLLECT, stopped in
HUNT. -/
def State.restartGapTimer (s : State) : State :=
  { s with rx := { s.rx with gapTimer := if s.rx.held.isEmpty then none else some (gapTime s.rate) } }

/-- A character taken from RXD (R159): only while the receiver looks for start bits. A low stop bit makes it wait for
RXD high. -/
def State.byteArrival (s : State) (data : Byte) (stopHigh : Bool) : State :=
  match s.rx.line with
  | .looking =>
    ({ s with rx := { s.rx with line := if stopHigh then .looking else .waitHigh } }.receive data).restartGapTimer
  | .waitIdle => s
  | .waitHigh => s

/-- The gap timer expires inside a frame (R164). -/
def State.gapExpiry (s : State) : State :=
  match s.rx.gapTimer with
  | none => s
  | some _ =>
    { s with
      rx := { s.rx with held := [], gapTimer := none, truncated := satInc Config.max16 s.rx.truncated } }

/-- RXD has been high for 10 bit-times after reset (R159). -/
def State.receiverStart (s : State) : State :=
  match s.rx.line with
  | .waitIdle => { s with rx := { s.rx with line := .looking } }
  | .looking => s
  | .waitHigh => s

/-- RXD is seen high again (R159). -/
def State.highAfterBreak (s : State) : State :=
  match s.rx.line with
  | .waitHigh => { s with rx := { s.rx with line := .looking } }
  | .looking => s
  | .waitIdle => s

/-- The end of a notice frame at the notice unit: the timer starts if its notice is the oldest and the unit is LIVE
(R135, R169). -/
def NoticeUnit.frameEnded (u : NoticeUnit) (number periods : Nat) : NoticeUnit :=
  match u.link, u.queue with
  | .live, oldest :: _ => if oldest.number = number then u.startTimer periods else u
  | _, _ => u

/-- The frame in transmission ends (R169); the choice that follows is the envelope's. -/
def State.frameEnd (s : State) : State :=
  match s.tx.frame with
  | none => s
  | some f =>
    let ended := { s with tx := { s.tx with frame := none } }
    match f.notice with
    | none => ended
    | some number => { ended with notices := s.notices.frameEnded number s.resendTime }

/-! ## The level of TXD (R158, R168, R169) -/

/-- The level of TXD in a frame, for a bit-time `bit` in link units: the characters back to back, each a low start bit,
the data bits 0 to 7 and a high stop bit (R158, R169). High once the last stop bit has ended. -/
def TxFrame.level (f : TxFrame) (bit : Nat) : Bool :=
  let sent := (f.bytes.length * 10 * bit - f.remaining) / bit
  if f.remaining = 0 then true
  else if sent % 10 = 0 then false
  else if sent % 10 = 9 then true
  else (f.bytes.getD (sent / 10) 0xFF#8).getLsbD (sent % 10 - 1)

/-- The level of TXD: high while the transmitter is FREE and in reset (R169). -/
def State.txd (s : State) : Bool :=
  match s.phase with
  | .inReset _ => true
  | .running =>
    match s.tx.frame with
    | none => true
    | some f => f.level (bitTime s.rate)

/-! ## An acknowledgement at the same time as an entry (R139) -/

/-- What the arrival of a frame or of its last character does, for the commands that can bring a NOTICE_ACK. -/
def arrivalOf : Instr → Option (State → State)
  | .noticeAck tagByte body => some fun s => s.arrive Kind.noticeAck.code tagByte body
  | .unknownKind kind tagByte body => some fun s => s.arrive kind tagByte body
  | .byteArrival data stopHigh => some fun s => s.byteArrival data stopHigh
  | _ => none

/-- The command that waits right behind this one, and so falls at the same time (notes/assumptions/26.md), is "an
acknowledgement that empties the queue" (R139): of the notices that stand before the entry it leaves none. -/
def State.ackEmptiesBehind (s : State) : Bool :=
  !s.notices.queue.isEmpty &&
  match s.pending with
  | [] => false
  | c :: _ =>
    match arrivalOf c with
    | none => false
    | some f => (f s).notices.queue.isEmpty

/-- The notice in transmission has its timer started at the end of this frame and not before (R139). -/
def State.deferTimer (s : State) : State :=
  { s with tx := { s.tx with frame := s.tx.frame.map fun f => { f with timerAtEnd := f.notice.isSome } } }

/-- The choice after an event that may have entered notices, from `before` to `after` (R168). A new notice that joins
while the transmitter is FREE is taken in any case, and its sent flag set (R134, R169). Where it is entered at the same
time as an acknowledgement which empties the queue, its timer starts only at the end of this first frame: the
acknowledgement starts none (R139; notes/assumptions/26.md). -/
def State.chooseAfterEntry (before after : State) : State :=
  if before.ackEmptiesBehind && after.tx.frame.isNone then after.transmit.deferTimer else after.transmit

/-- The envelope of a command that may enter notices (R131, R133). -/
def State.entryEvent (s : State) (f : State → State) : State :=
  match s.phase with
  | .inReset _ => s
  | .running => s.transmit.chooseAfterEntry (f s.transmit)

/-! ## The rows of the link -/

/-- RECEIVER_START (R159). -/
def execReceiverStart (s : State) : Host.Outcome State Fault Refusal := .next (s.event State.receiverStart)

/-- BYTE_ARRIVAL (R162). -/
def execByteArrival (data : Byte) (stopHigh : Bool) (s : State) : Host.Outcome State Fault Refusal :=
  .next (s.event fun s => s.byteArrival data stopHigh)

/-- GAP_TIMER_EXPIRY (R164). -/
def execGapTimerExpiry (s : State) : Host.Outcome State Fault Refusal := .next (s.event State.gapExpiry)

/-- FRAME_END (R169). -/
def execFrameEnd (s : State) : Host.Outcome State Fault Refusal := .next (s.event State.frameEnd)

/-- RXD_HIGH_AFTER_BREAK (R159). -/
def execRxdHighAfterBreak (s : State) : Host.Outcome State Fault Refusal := .next (s.event State.highAfterBreak)

end Sys2Proof.Machine
end

