-- ==== Sys2Proof/Machine/BusEvents.lean ====
section
/-! DEFINITION. The rows of the arbiter and of the local bus controller (R29 to R37, R50, R51). -/

namespace Sys2Proof.Machine

/-- The release-gap record has counted down to absent (R32, R33): a GAP ends, and the waiting access starts or the lend
is taken. Inside an access there is no record. -/
def State.gapEnd (s : State) : State :=
  let cleared := { s with bus := { s.bus with gapRecord := none } }
  match s.bus.state with
  | .access _ => s
  | .gap =>
    match s.bus.turn with
    | some t => cleared.startNext t
    | none => cleared.endTurn
  | .idle => cleared
  | .retryWait _ => cleared
  | .lent => cleared
  | .reclaim _ => cleared

/-- The retry wait of a held SEQUENCE ends: the same access is made again (R34). -/
def State.retryWaitEnd (s : State) : State :=
  match s.bus.state, s.bus.turn with
  | .retryWait _, some t => s.startNext t
  | _, _ => s

def State.setLendPending (s : State) (b : Bool) : State := { s with bus := { s.bus with lendPending := b } }

/-- LREQn asserted, by the bus state (R36). -/
def State.lreqAsserted (s : State) : State :=
  match s.bus.state with
  | .idle => (s.setLendPending true).takeLend
  | .access _ => s.setLendPending true
  | .retryWait _ => s.setLendPending true
  | .gap =>
    match s.bus.turn with
    | some _ => s.setLendPending true
    | none => s
  | .lent => s
  | .reclaim _ => s.setLendPending true

/-- LREQn withdrawn, by the bus state (R37). -/
def State.lreqWithdrawn (s : State) : State :=
  match s.bus.state with
  | .idle => s.setLendPending false
  | .access _ => s.setLendPending false
  | .retryWait _ => s.setLendPending false
  | .gap =>
    match s.bus.turn with
    | some _ => s.setLendPending false
    | none => { s with bus := { s.bus with state := .idle, lendPending := false } }
  | .lent => { s with bus := { s.bus with state := .reclaim Config.reclaimTime } }
  | .reclaim _ => s.setLendPending false

/-- A pending lend is taken when the controller is free (R35): in IDLE, or in the GAP before the lend once the record
is absent. -/
def State.lendTaken (s : State) : State :=
  if s.bus.lendPending && s.bus.turn.isNone then
    match s.bus.state with
    | .idle => s.takeLend
    | .gap => if s.bus.gapRecord.isNone then s.takeLend else s
    | .access _ => s
    | .retryWait _ => s
    | .lent => s
    | .reclaim _ => s
  else s

/-- The reclaim time has run out (R37): IDLE, or a pending lend is taken again. -/
def State.reclaimEnd (s : State) : State :=
  match s.bus.state with
  | .reclaim _ => s.endTurn
  | _ => s

/-! ## The rows -/

/-- GRANT (R50, R51). -/
def execGrant (s : State) : Host.Outcome State Fault Refusal := .next (s.event State.grant)

/-- ACCESS_END (R29). -/
def execAccessEnd (ready : List Bool) (deferred : Bool) (lines : BusData) (s : State) :
    Host.Outcome State Fault Refusal :=
  .next (s.entryEvent fun s => s.accessEnd ready deferred lines)

/-- GAP_END (R33). -/
def execGapEnd (s : State) : Host.Outcome State Fault Refusal := .next (s.event State.gapEnd)

/-- RETRY_WAIT_END (R34). -/
def execRetryWaitEnd (s : State) : Host.Outcome State Fault Refusal := .next (s.event State.retryWaitEnd)

/-- LREQN_ASSERTED (R36). The level of the pin is known in reset too (R40). -/
def execLreqnAsserted (s : State) : Host.Outcome State Fault Refusal :=
  .next ({ s with lreq := true }.event State.lreqAsserted)

/-- LEND_TAKEN (R35). -/
def execLendTaken (s : State) : Host.Outcome State Fault Refusal := .next (s.event State.lendTaken)

/-- LREQN_WITHDRAWN (R37). The level of the pin is known in reset too (R40). -/
def execLreqnWithdrawn (s : State) : Host.Outcome State Fault Refusal :=
  .next ({ s with lreq := false }.event State.lreqWithdrawn)

/-- RECLAIM_END (R37). -/
def execReclaimEnd (s : State) : Host.Outcome State Fault Refusal := .next (s.event State.reclaimEnd)

end Sys2Proof.Machine
end

