-- ==== Sys2Proof/Machine/Resets.lean ====
section
/-! DEFINITION. Power-on and the pin reset (R40, R140). -/

namespace Sys2Proof.Machine

/-- The notice unit enters the BOOT notice with the cause of the reset (R140). -/
def ResetCause.notice (c : ResetCause) : NoticeContent := { kind := .boot, subject := 0, data := [c.code] }

/-- Every block at its initial values (R1, R21, R40 and the other tables), with new straps. The level of LREQn is the
card's; the free-value counter and the command queue are the model's own. -/
def State.initialised (s : State) (rate : BitVec 2) : State := State.initial rate s.lreq s.freeCount s.pending

/-- A reset ends (R40, R140, R158): initial values, the straps sampled, the BOOT notice entered, and LREQn asserted at
that moment taken as an assertion in IDLE. -/
def State.boot (s : State) (cause : ResetCause) (rate : BitVec 2) : State :=
  let booted := (s.initialised rate).enterNotice cause.notice
  if s.lreq then booted.lreqAsserted else booted

/-- POWER_ON (R140). While RSTn is held asserted the reset goes on, and its BOOT notice will carry POWER_ON. -/
def execPowerOn (rate : BitVec 2) (s : State) : Host.Outcome State Fault Refusal :=
  match s.phase with
  | .running => .next (s.boot .powerOn rate).transmit
  | .inReset _ => .next { s.initialised rate with phase := .inReset .powerOn }

/-- RSTN_ASSERTED (R40): every block is reset at once; a second assertion changes nothing. -/
def execRstnAsserted (s : State) : Host.Outcome State Fault Refusal :=
  match s.phase with
  | .running => .next { s.initialised s.rate with phase := .inReset .resetPin }
  | .inReset _ => .next s

/-- RSTN_WITHDRAWN (R40, R140): reset ends; without a reset held there is nothing to end, and a choice that is open is
made as after every event (R168). -/
def execRstnWithdrawn (rate : BitVec 2) (s : State) : Host.Outcome State Fault Refusal :=
  match s.phase with
  | .running => .next s.transmit
  | .inReset cause => .next (s.boot cause rate).transmit

end Sys2Proof.Machine
end

