-- ==== Sys2Proof/Machine/Timed.lean ====
section
/-! DEFINITION. The rows of the queue and of the timers (R16, R55, R58, R103, R120, R135). -/

namespace Sys2Proof.Machine

/-- BACKOFF_END (R55). -/
def execBackoffEnd (t : Tag) (s : State) : Host.Outcome State Fault Refusal :=
  .next (s.event fun s => s.backoffEnd t)

/-- DEADLINE (R58). -/
def execDeadline (t : Tag) (s : State) : Host.Outcome State Fault Refusal :=
  .next (s.event fun s => s.deadlinePasses t)

/-- WINDOW_REQUEST_TAKES_EFFECT (R16). -/
def execWindowRequestTakesEffect (w : WinId) (s : State) : Host.Outcome State Fault Refusal :=
  .next (s.event fun s => s.takesEffect w)

/-- POLL_TICK (R103). -/
def execPollTick (s : State) : Host.Outcome State Fault Refusal := .next (s.event State.pollTick)

/-- INTERVAL_END (R120). -/
def execIntervalEnd (s : State) : Host.Outcome State Fault Refusal := .next (s.entryEvent State.intervalEnd)

/-- RESEND_TIMER_EXPIRY (R135). -/
def execResendTimerExpiry (s : State) : Host.Outcome State Fault Refusal := .next (s.event State.resendExpiry)

end Sys2Proof.Machine
end

