-- ==== Sys2Proof/Machine/Dispatch.lean ====
section
/-! DEFINITION. One arm per command: the effect of each on everything but the queue of waiting commands. -/

namespace Sys2Proof.Machine

def exec (i : Instr) (s : State) : Host.Outcome State Fault Refusal :=
  match i with
  | .powerOn rate => Sys2Proof.Machine.execPowerOn rate s
  | .rstnAsserted => Sys2Proof.Machine.execRstnAsserted s
  | .rstnWithdrawn rate => Sys2Proof.Machine.execRstnWithdrawn rate s
  | .receiverStart => Sys2Proof.Machine.execReceiverStart s
  | .byteArrival data stopHigh => Sys2Proof.Machine.execByteArrival data stopHigh s
  | .gapTimerExpiry => Sys2Proof.Machine.execGapTimerExpiry s
  | .read tagByte body => Sys2Proof.Machine.execRead tagByte body s
  | .write tagByte body => Sys2Proof.Machine.execWrite tagByte body s
  | .sequence tagByte body => Sys2Proof.Machine.execSequence tagByte body s
  | .windowSet tagByte body => Sys2Proof.Machine.execWindowSet tagByte body s
  | .windowClose tagByte body => Sys2Proof.Machine.execWindowClose tagByte body s
  | .windowQuery tagByte body => Sys2Proof.Machine.execWindowQuery tagByte body s
  | .watchSet tagByte body => Sys2Proof.Machine.execWatchSet tagByte body s
  | .watchDrop tagByte body => Sys2Proof.Machine.execWatchDrop tagByte body s
  | .watchQuery tagByte body => Sys2Proof.Machine.execWatchQuery tagByte body s
  | .countersRead tagByte body => Sys2Proof.Machine.execCountersRead tagByte body s
  | .countersClear tagByte body => Sys2Proof.Machine.execCountersClear tagByte body s
  | .historyRead tagByte body => Sys2Proof.Machine.execHistoryRead tagByte body s
  | .timingSet tagByte body => Sys2Proof.Machine.execTimingSet tagByte body s
  | .status tagByte body => Sys2Proof.Machine.execStatus tagByte body s
  | .identify tagByte body => Sys2Proof.Machine.execIdentify tagByte body s
  | .noticeAck tagByte body => Sys2Proof.Machine.execNoticeAck tagByte body s
  | .abort tagByte body => Sys2Proof.Machine.execAbort tagByte body s
  | .restart tagByte body => Sys2Proof.Machine.execRestart tagByte body s
  | .unknownKind kind tagByte body => Sys2Proof.Machine.execUnknownKind kind tagByte body s
  | .grant => Sys2Proof.Machine.execGrant s
  | .accessEnd ready deferred lines => Sys2Proof.Machine.execAccessEnd ready deferred lines s
  | .gapEnd => Sys2Proof.Machine.execGapEnd s
  | .retryWaitEnd => Sys2Proof.Machine.execRetryWaitEnd s
  | .backoffEnd tag => Sys2Proof.Machine.execBackoffEnd tag s
  | .deadline tag => Sys2Proof.Machine.execDeadline tag s
  | .windowRequestTakesEffect window => Sys2Proof.Machine.execWindowRequestTakesEffect window s
  | .lreqnAsserted => Sys2Proof.Machine.execLreqnAsserted s
  | .lendTaken => Sys2Proof.Machine.execLendTaken s
  | .lreqnWithdrawn => Sys2Proof.Machine.execLreqnWithdrawn s
  | .reclaimEnd => Sys2Proof.Machine.execReclaimEnd s
  | .pollTick => Sys2Proof.Machine.execPollTick s
  | .intervalEnd => Sys2Proof.Machine.execIntervalEnd s
  | .resendTimerExpiry => Sys2Proof.Machine.execResendTimerExpiry s
  | .frameEnd => Sys2Proof.Machine.execFrameEnd s
  | .rxdHighAfterBreak => Sys2Proof.Machine.execRxdHighAfterBreak s

end Sys2Proof.Machine
end

