-- ==== Sys2Proof/Machine/Clock.lean ====
section
/-! DEFINITION. What the block does by itself when no command waits (notes/assumptions/2.md, DESIGN CHOICE): it takes
an internal event that is due, each of them a row of the table, or one bus period of REFCLK passes. -/

namespace Sys2Proof.Machine

/-- A window request that meets both conditions of R16. Where several windows have one, the spec does not order them;
that of the lowest window number comes first (DESIGN CHOICE, notes/assumptions/2.md). -/
def State.requestDue (s : State) : Option Instr :=
  (WinId.all.find? (fun w => (s.readyRequest w).isSome)).map .windowRequestTakesEffect

/-- The controller's own next event: the end of a GAP, of a RETRY_WAIT or of RECLAIM, or a lend to be taken (R33 to
R37). -/
def State.busDue (s : State) : Option Instr :=
  match s.bus.state, s.bus.turn with
  | .idle, none => if s.bus.lendPending then some .lendTaken else none
  | .gap, some _ => if s.bus.gapRecord.isNone then some .gapEnd else none
  | .gap, none =>
    if s.bus.gapRecord.isNone then (if s.bus.lendPending then some .lendTaken else some .gapEnd) else none
  | .retryWait remaining, some _ => if remaining = 0 then some .retryWaitEnd else none
  | .reclaim remaining, _ => if remaining = 0 then some .reclaimEnd else none
  | _, _ => none

/-- A grant is possible (R50). -/
def State.grantDue (s : State) : Option Instr := if s.busFree && s.choose.isSome then some .grant else none

/-- The last stop bit of the frame in transmission has ended (R169). -/
def State.frameDue (s : State) : Option Instr :=
  match s.tx.frame with
  | none => none
  | some f => if f.remaining = 0 then some .frameEnd else none

/-- A deadline whose time has come (R58). -/
def LinkEntry.deadlineDue (e : LinkEntry) (now : Nat) : Bool :=
  match e.deadline with
  | none => false
  | some d => !d.passed && decide (d.time ≤ now)

/-- Of several deadlines that have come, that of the entry accepted first (DESIGN CHOICE, notes/assumptions/2.md). -/
def State.deadlineDue (s : State) : Option Instr :=
  (s.queue.find? (fun e => e.deadlineDue s.now)).map fun e => .deadline e.tag

/-- A retry time that is reached (R55). -/
def LinkEntry.backoffDue (e : LinkEntry) (now : Nat) : Bool :=
  match e.retryTime with
  | none => false
  | some time => decide (e.state = .deferred) && decide (time ≤ now)

/-- Of several retry times that are reached, that of the entry accepted first (DESIGN CHOICE, notes/assumptions/2.md). -/
def State.backoffDue (s : State) : Option Instr :=
  (s.queue.find? (fun e => e.backoffDue s.now)).map fun e => .backoffEnd e.tag

/-- The internal event that is due: first what follows a previous event at once, then the timers. The order is a
DESIGN CHOICE (notes/assumptions/2.md); a sender shows any other order by its commands. -/
def State.dueEvent (s : State) : Option Instr :=
  match s.phase with
  | .inReset _ => none
  | .running =>
    [s.requestDue, s.busDue, s.grantDue, s.frameDue, s.deadlineDue, s.backoffDue,
     (if s.pollTimer = 0 then some .pollTick else none),
     (if s.intervalTimer = 0 then some .intervalEnd else none),
     (if s.notices.resendTimer = some 0 then some .resendTimerExpiry else none)].findSome? id

/-- The bus after one more bus period (R21, R32, R34, R37). -/
def Bus.elapse (b : Bus) : Bus :=
  match b.state with
  | .access a => { b with state := .access { a with elapsed := a.elapsed + 1 } }
  | .retryWait remaining => { b with state := .retryWait (remaining - 1), gapRecord := countGap b.gapRecord }
  | .reclaim remaining => { b with state := .reclaim (remaining - 1), gapRecord := countGap b.gapRecord }
  | .idle => { b with gapRecord := countGap b.gapRecord }
  | .gap => { b with gapRecord := countGap b.gapRecord }
  | .lent => { b with gapRecord := countGap b.gapRecord }
where
  /-- The release-gap record falls by one each bus period outside an access (R32). -/
  countGap : Option GapRecord → Option GapRecord
    | none => none
    | some g => if g.remaining ≤ 1 then none else some { g with remaining := g.remaining - 1 }

/-- One bus period of 20 ns passes: every timer that runs counts down. -/
def State.elapse (s : State) : State :=
  { s with
    now := s.now + 1, bus := s.bus.elapse, pollTimer := s.pollTimer - 1, intervalTimer := s.intervalTimer - 1,
    notices := { s.notices with resendTimer := s.notices.resendTimer.map (fun n => n - 1) },
    rx := { s.rx with gapTimer := s.rx.gapTimer.map (fun n => n - Config.linkUnitsPerPeriod) },
    tx := { s.tx with
            frame := s.tx.frame.map (fun f => { f with remaining := f.remaining - Config.linkUnitsPerPeriod }) } }

end Sys2Proof.Machine
end

