-- ==== Sys2Proof/Machine/Step.lean ====
section
/-! DEFINITION. One step: the command at the front of the queue, or on an empty queue the block's own next event. -/

namespace Sys2Proof.Machine

/-- One step. On an empty queue: the internal event that is due, else one bus period passes
(notes/assumptions/2.md). -/
def step (s : State) : Host.Outcome State Fault Refusal :=
  match s.pending with
  | c :: rest => exec c { s with pending := rest }
  | [] =>
    match s.dueEvent with
    | some c => exec c s
    | none => .next (s.event State.elapse)

/-- The command a table word spells, put at the front of the queue; unchanged where it spells none. -/
def State.withFetchWord (s : State) (nbits w : Nat) : State :=
  match decodeTableWord nbits w with
  | some c => { s with pending := c :: s.pending }
  | none => s

end Sys2Proof.Machine
end

