-- ==== Sys2Proof/Safety.lean ====
section
/-! DEFINITION. What a sound state of the AW4210 is: the laws the spec says its blocks keep. Claims are stated in these
terms. -/

namespace Sys2Proof.Machine

/-! ## Windows: ranges, R9 and the table of R86 -/

/-- The runs of a health state (R86). -/
def Health.wellFormed (h : Health) (declareCount clearCount : Nat) : Bool :=
  match h.state with
  | .healthy => decide (h.failureRun = 0) && decide (h.successRun = 0)
  | .suspect => decide (1 ≤ h.failureRun) && decide (h.failureRun < declareCount) && decide (h.successRun = 0)
  | .failed => decide (h.failureRun = declareCount) && decide (h.successRun < clearCount)

/-- An OPEN window holds fields in their ranges (R2 to R6) and a health of the table of R86. -/
def Window.sound (x : Window) : Bool :=
  !x.isOpen || (x.fields.inRange && x.health.wellFormed x.fields.declareCount x.fields.clearCount)

/-- The fields a queued WINDOW_SET carries are in range (R14). -/
def LinkEntry.fieldsInRange (e : LinkEntry) : Bool :=
  match e.request with
  | .windowSet f => f.inRange
  | _ => true

/-- No two OPEN windows overlap (R9); every OPEN window is sound, and so is what a queued WINDOW_SET will write. -/
def State.WindowLaw (s : State) : Prop :=
  (∀ w : WinId, (s.window w).sound = true) ∧
  (∀ w v : WinId, w ≠ v → (s.window w).isOpen = true → (s.window v).isOpen = true →
    (s.window w).fields.overlaps (s.window v).fields = false) ∧
  (∀ e ∈ s.queue, e.fieldsInRange = true)

/-! ## Tags, queue and reply lists: R43, R143, R152, R153 -/

/-- The phase of a PENDING tag. -/
def TagEntry.pendingPhase : TagEntry → Option Bool
  | .empty => none
  | .pending phase => some phase
  | .done _ _ => none

def TagEntry.isDone : TagEntry → Bool
  | .empty => false
  | .pending _ => false
  | .done _ _ => true

/-- The queue holds at most 12 entries and no two of one tag; a tag is PENDING exactly when the queue holds an entry
with it (R43); every listed tag is DONE and listed once (R153); the immediate reply list holds at most 4 (R152). -/
def State.QueueLaw (s : State) : Prop :=
  s.queue.length ≤ Config.queueCapacity ∧
  (s.queue.map LinkEntry.tag).Nodup ∧
  (∀ t : Tag, (s.tagOf t).pendingPhase = (s.entryOf t).map LinkEntry.phase) ∧
  s.tracker.outgoing.Nodup ∧
  (∀ t ∈ s.tracker.outgoing, (s.tagOf t).isDone = true) ∧
  s.tracker.immediate.length ≤ Config.immediateCapacity

/-! ## Notices: R130, R132, R133, R137 -/

/-- The numbers of the notices run on, and the next number follows the newest (R130, R132). -/
def numbersRun : List Notice → Nat → Bool
  | [], _ => true
  | [n], next => decide (nextNoticeNumber n.number = next)
  | n :: m :: rest, next => decide (nextNoticeNumber n.number = m.number) && numbersRun (m :: rest) next

/-- At most 24 notices with consecutive numbers (R130); the resend timer runs, a resend is due and the unit is DEAF only
while there is a notice (R135, R137). -/
def State.NoticeLaw (s : State) : Prop :=
  s.notices.queue.length ≤ Config.noticeCapacity ∧
  numbersRun s.notices.queue s.notices.next = true ∧
  1 ≤ s.notices.next ∧ s.notices.next ≤ 65535 ∧
  s.notices.lost ≤ Config.max16 ∧
  (s.notices.resendTimer.isSome = true → s.notices.queue ≠ []) ∧
  (s.notices.resendDue = true → s.notices.queue ≠ []) ∧
  (s.notices.link = .deaf → s.notices.queue ≠ [] ∧ s.notices.resendTimer = none ∧ s.notices.resendDue = false)

/-! ## History rings: R121 -/

/-- The interval numbers of a ring run on and end with `last` (R121). -/
def ringRuns : List Record → Nat → Bool
  | [], _ => true
  | [r], last => decide (r.number = last)
  | r :: q :: rest, last => decide (nextInterval r.number = q.number) && ringRuns (q :: rest) last

/-- Every ring holds at most 8 records with consecutive interval numbers, the newest that of the last interval end; the
ring of a CLOSED window is empty (R116, R121). -/
def State.RingLaw (s : State) : Prop :=
  ∀ w : WinId,
    (s.statsOf w).ring.length ≤ Config.ringCapacity ∧
    ringRuns (s.statsOf w).ring s.intervalNumber = true ∧
    ((s.window w).isOpen = false → (s.statsOf w).ring = [])

/-! ## Polls: R104 -/

/-- The poll queue names each watch id at most once, and exactly those in-use entries whose outstanding flag is set
(R96, R104). -/
def State.PollLaw (s : State) : Prop :=
  s.pollQueue.Nodup ∧
  (∀ id : WatchId, decide (id ∈ s.pollQueue) = ((s.watchOf id).map WatchEntry.outstanding).getD false)

/-! ## Bus: R21 to R23, R32, R36, R37 -/

/-- The bus state agrees with the turn in service, lend-pending and the release-gap record. -/
def Bus.wellFormed (b : Bus) : Bool :=
  match b.state with
  | .idle => b.turn.isNone && !b.lendPending
  | .access _ => b.turn.isSome && b.gapRecord.isNone
  | .gap => b.turn.isSome || b.lendPending
  | .retryWait _ => b.turn.isSome
  | .lent => b.turn.isNone && !b.lendPending && b.gapRecord.isNone
  | .reclaim _ => b.turn.isNone && b.gapRecord.isNone

def State.BusLaw (s : State) : Prop := s.bus.wellFormed = true

/-! ## Watch entries and service: R22, R46, R64, R95 -/

/-- Every in-use watch entry stands, aligned, inside an OPEN window that permits reads (R95, R98). -/
def State.WatchLaw (s : State) : Prop :=
  ∀ id : WatchId, ∀ x ∈ s.watchOf id,
    x.config.address % x.config.unit.bytes = 0 ∧
    ∃ w : WinId, (s.window w).isOpen = true ∧ (s.window w).fields.base ≤ x.config.address ∧
      x.config.address + x.config.unit.bytes ≤ (s.window w).fields.base + 2 ^ (s.window w).fields.sizeExp ∧
      (s.window w).fields.rights.permitsRead = true

/-- The turn and the queue agree, both ways: an ACTIVE entry is the link holder of the turn in service, and a link
holder is an ACTIVE bus request bound to the window of the turn (R22, R43); an access is an access of the turn's window
(R24). A bus request has work left (R43). An entry that has begun is a bus request and the oldest item bound to its
window, so that a window has at most one ACTIVE or DEFERRED entry (R46, R47). A FAILED window has no bus request
without FORCE (R64). -/
def State.ServiceLaw (s : State) : Prop :=
  (∀ e ∈ s.queue, e.state = .active → s.bus.turn.map Turn.holder = some (.link e.tag)) ∧
  (∀ turn ∈ s.bus.turn, ∀ tag : Tag, turn.holder = .link tag →
    ∃ e ∈ s.queue, e.tag = tag ∧ e.state = .active ∧ e.request.isBus = true ∧ e.window = turn.window) ∧
  (∀ a : Access, s.bus.state = .access a → ∀ turn ∈ s.bus.turn, a.window = turn.window) ∧
  (∀ e ∈ s.queue, e.request.isBus = true → (e.request.workAt e.done).isSome = true) ∧
  (∀ e ∈ s.queue, e.state ≠ .waiting →
    e.request.isBus = true ∧ (s.oldestOn e.window).map LinkEntry.tag = some e.tag) ∧
  (∀ e ∈ s.queue, e.request.isBus = true → e.force = false → (s.window e.window).health.state ≠ .failed)

/-! ## Transmitter: R168 -/

/-- Nothing waits for a transmitter that is FREE. -/
def State.settled (s : State) : Prop :=
  s.tx.frame.isSome = true ∨ (s.tracker.immediate = [] ∧ s.outgoingReply = none ∧ s.notices.due = none)

/-! ## The words statements are made in -/

/-- A notice with its sent mark set aside. -/
def Notice.unsent (n : Notice) : Notice := { n with sent := false }

/-- Everything but what waits for the transmitter and the transmitter itself: the two reply lists with the count of
dropped answers, the sent marks of notices, resend due and the frame in transmission are set aside. A choice of the
transmitter (R168) changes nothing else. -/
def State.offWire (s : State) : State :=
  { s with
    tracker := { s.tracker with outgoing := [], immediate := [], drops := 0 },
    notices := { s.notices with queue := s.notices.queue.map Notice.unsent, resendDue := false },
    tx := .reset }

/-- From `s` to `t` these characters arrive from RXD one after the other, each with a high stop bit. -/
def State.fed : List Byte → State → State → Prop
  | [], s, t => t = s
  | b :: rest, s, t => ∃ u, exec (.byteArrival b true) s = .next u ∧ State.fed rest u t

/-- The frame in transmission is this reply (R169). -/
def State.sending (s : State) (r : Reply) : Prop :=
  s.tx.frame = some { bytes := frameBytes r.kind r.tagByte r.body, notice := none,
                      remaining := frameTime s.rate (frameBytes r.kind r.tagByte r.body).length }

/-- From `s` to `t` the immediate answer `r` is given (R152, R168): a transmitter that is FREE, once it has made the
choice it had, takes it at once; else it joins the immediate reply list, or is dropped and counted on a full one. -/
def State.answered (s t : State) (r : Reply) : Prop :=
  let u := s.transmit
  if u.tx.frame.isSome then
    t.tx = u.tx ∧
      (if u.tracker.immediate.length < Config.immediateCapacity then
        t.tracker.immediate = u.tracker.immediate ++ [r] ∧ t.tracker.drops = u.tracker.drops
      else t.tracker.immediate = u.tracker.immediate ∧ t.tracker.drops = satInc Config.max16 u.tracker.drops)
  else t.sending r ∧ t.tracker.immediate = [] ∧ t.tracker.drops = u.tracker.drops

/-- The reply is stored under its tag, and the tag is listed or its reply is being sent (R149, R150, R153). -/
def State.hasStored (t : State) (tag : Tag) (phase : Bool) (r : Reply) : Prop :=
  t.tagOf tag = .done phase r ∧ (tag ∈ t.tracker.outgoing ∨ t.sending r)

/-- From `s` to `t` a new tagged request gets its answer at its arrival, and nothing else changes (R145, R147). -/
def State.refusedWith (s t : State) (tag : Tag) (tagByte : Byte) (r : Reply) : Prop :=
  t.offWire = (s.hear.setTag tag (.done (phaseOf tagByte) r)).offWire ∧ t.hasStored tag (phaseOf tagByte) r

/-- From `s` to `t` the turn in service is over at the end of its access `a`: the release-gap record is the one the
access leaves (R32), and the bus is IDLE, or a pending lend is taken, after the GAP where there is a record (R23, R33,
R35). -/
def State.turnOver (s t : State) (a : Access) : Prop :=
  let gap : Option GapRecord :=
    if a.dir = .read ∧ 1 ≤ a.profile.releaseGap then
      some { select := a.select, remaining := a.profile.releaseGap }
    else none
  t.bus.gapRecord = gap ∧ t.bus.turn = none ∧
  (s.bus.lendPending = false →
    t.bus.state = .idle ∧ t.bus.lendPending = false ∧ t.bus.lendCount = s.bus.lendCount) ∧
  (s.bus.lendPending = true → gap = none →
    t.bus.state = .lent ∧ t.bus.lendPending = false ∧ t.bus.lendCount = min (s.bus.lendCount + 1) 0xFFFFFFFF) ∧
  (s.bus.lendPending = true → gap ≠ none →
    t.bus.state = .gap ∧ t.bus.lendPending = true ∧ t.bus.lendCount = s.bus.lendCount)

/-- In `t` the turn goes on with access number `i` of unit or step `st`, bound to window `w` of `s`, with `held` the
value read so far (R22, R24, R31, R76, R79, R80). -/
def State.accessing (s t : State) (turn : Turn) (w : WinId) (st : SeqStep) (i : Nat) (held : Value) : Prop :=
  let fields := (s.window w).fields
  let piece := st.pieceAt fields.lane i
  t.bus.turn = some turn ∧ t.bus.gapRecord = none ∧ t.bus.lendPending = s.bus.lendPending ∧
  ∃ b : Access, t.bus.state = .access b ∧ b.window = w ∧ b.address = piece.address ∧ b.select = fields.select ∧
    b.lowLane = piece.low ∧ b.highLane = piece.high ∧ b.dir = st.dirAt fields.lane i ∧
    (b.dir = .write → b.data = piece.drive (st.writeValue held)) ∧ b.profile = fields.profile ∧ b.elapsed = 0

/-- On a free bus a queue entry with these `older` entries before it may be granted: a bus request, WAITING or DEFERRED
with its backoff ended, and the oldest item bound to its window (R46, R48). -/
def LinkEntry.grantableBehind (older : List LinkEntry) (e : LinkEntry) : Prop :=
  e.request.isBus = true ∧ (e.state = .waiting ∨ (e.state = .deferred ∧ e.retryTime = none)) ∧
  ∀ x ∈ older, x.window ≠ e.window

/-- On a free bus the poll request of a watch entry may be granted: no DEFERRED bus request and no window request is
bound to the window its address decodes to (R47, R49). -/
def State.pollGrantable (s : State) (id : WatchId) : Prop :=
  ∃ x w, s.watchOf id = some x ∧ s.decode x.config.address = some w ∧
    ∀ e ∈ s.queue, e.window = w → e.request.isBus = true ∧ e.state ≠ .deferred

/-- The value an access that ended OK leaves: a read adds the bits it sampled (R53, R74, R80). -/
def SeqStep.heldAfter (st : SeqStep) (lane : Lane) (i : Nat) (held : Value) (lines : BusData) : Value :=
  if st.dirAt lane i = .read then held ||| (st.pieceAt lane i).sample lines else held

/-- A TEST whose masked value differs from its reference (R81). -/
def SeqStep.differs (st : SeqStep) (v : Value) : Prop :=
  ∃ mask reference, st.op = .test mask reference ∧ v &&& mask ≠ reference

/-- The health notices between `s` and `t` of a window: WINDOW_FAILED when it became FAILED, WINDOW_RECOVERED when it
left FAILED, if its flag for health changes is on (R87, R90). -/
def State.healthNotices (s t : State) (w : WinId) : List NoticeContent :=
  let was := (s.window w).health.state
  let is := (t.window w).health.state
  if (s.window w).fields.notifyHealth = false then []
  else if was ≠ .failed ∧ is = .failed then [{ kind := .windowFailed, subject := w.val, data := [] }]
  else if was = .failed ∧ is ≠ .failed then [{ kind := .windowRecovered, subject := w.val, data := [] }]
  else []

/-- The command that is the arrival of a frame of this kind. -/
def Kind.command (k : Kind) (tagByte : Byte) (body : List Byte) : Instr :=
  match k with
  | .read => .read tagByte body
  | .write => .write tagByte body
  | .sequence => .sequence tagByte body
  | .windowSet => .windowSet tagByte body
  | .windowClose => .windowClose tagByte body
  | .windowQuery => .windowQuery tagByte body
  | .watchSet => .watchSet tagByte body
  | .watchDrop => .watchDrop tagByte body
  | .watchQuery => .watchQuery tagByte body
  | .countersRead => .countersRead tagByte body
  | .countersClear => .countersClear tagByte body
  | .historyRead => .historyRead tagByte body
  | .timingSet => .timingSet tagByte body
  | .status => .status tagByte body
  | .identify => .identify tagByte body
  | .noticeAck => .noticeAck tagByte body
  | .abort => .abort tagByte body
  | .restart => .restart tagByte body

/-- How the body of a bus request is read (R68 to R70). -/
def Kind.busBody (k : Kind) (tagByte : Byte) (body : List Byte) : Except Status LinkRequest :=
  match k with
  | .read => readRead (spareClear tagByte) body
  | .write => readWrite (spareClear tagByte) body
  | .sequence => readSequence (spareClear tagByte) body
  | _ => .error .unknownKind

/-- The step code of R70. -/
def StepOp.code : StepOp → Nat
  | .read => 0
  | .write _ => 1
  | .modify _ _ => 2
  | .test _ _ => 3

/-- The operands of a step in the order of their bytes (R70). -/
def StepOp.operands : StepOp → List Value
  | .read => []
  | .write value => [value]
  | .modify andMask orMask => [andMask, orMask]
  | .test mask reference => [mask, reference]

/-- The bytes of a step in a SEQUENCE body (R70, R170). -/
def SeqStep.toBytes (st : SeqStep) : List Byte :=
  be1 st.op.code ++ be3 st.address ++ be1 st.unit.bytes ++ (st.op.operands.map st.unit.toBytes).flatten

/-- The body of a TIMING_SET with this present mask: the mask, then the present values of `p` (R151, R170). -/
def timingBody (mask : Byte) (p : Timing) : List Byte :=
  mask ::
    ((if mask.getLsbD 0 then be1 p.pollTick else []) ++ (if mask.getLsbD 1 then be1 p.interval else []) ++
     (if mask.getLsbD 2 then be2 p.lifetime else []) ++ (if mask.getLsbD 3 then be1 p.pollShare else []) ++
     (if mask.getLsbD 4 then be2 p.resendInterval else []) ++ (if mask.getLsbD 5 then be1 p.resendLimit else []))

/-- The length of the values a present mask names (R170). -/
def timingLength (mask : Byte) : Nat :=
  (if mask.getLsbD 0 then 1 else 0) + (if mask.getLsbD 1 then 1 else 0) + (if mask.getLsbD 2 then 2 else 0) +
  (if mask.getLsbD 3 then 1 else 0) + (if mask.getLsbD 4 then 2 else 0) + (if mask.getLsbD 5 then 1 else 0)

/-- Every parameter fits the size of its field (R170). -/
def Timing.fits (p : Timing) : Prop :=
  p.pollTick < 256 ∧ p.interval < 256 ∧ p.lifetime < 65536 ∧ p.pollShare < 256 ∧ p.resendInterval < 65536 ∧
  p.resendLimit < 256

/-- Every present parameter is in its range (R151). -/
def Timing.presentOk (p : Timing) (mask : Byte) : Prop :=
  (mask.getLsbD 0 = true → 1 ≤ p.pollTick ∧ p.pollTick ≤ 100) ∧
  (mask.getLsbD 1 = true → 1 ≤ p.interval ∧ p.interval ≤ 60) ∧
  (mask.getLsbD 3 = true → 1 ≤ p.pollShare ∧ p.pollShare ≤ 8) ∧
  (mask.getLsbD 4 = true → 50 ≤ p.resendInterval ∧ p.resendInterval ≤ 5000) ∧
  (mask.getLsbD 5 = true → 1 ≤ p.resendLimit ∧ p.resendLimit ≤ 15)

/-- The parameters after a TIMING_SET: `p` where present, else as they were (R151). -/
def Timing.updated (old p : Timing) (mask : Byte) : Timing :=
  { pollTick := if mask.getLsbD 0 then p.pollTick else old.pollTick,
    interval := if mask.getLsbD 1 then p.interval else old.interval,
    lifetime := if mask.getLsbD 2 then p.lifetime else old.lifetime,
    pollShare := if mask.getLsbD 3 then p.pollShare else old.pollShare,
    resendInterval := if mask.getLsbD 4 then p.resendInterval else old.resendInterval,
    resendLimit := if mask.getLsbD 5 then p.resendLimit else old.resendLimit }

/-- Every field of a WINDOW_SET body of 23 bytes is in range, and so is its tag byte (R2 to R6, R14, R170). -/
def windowSetInRange (tagByte : Byte) (body : List Byte) : Prop :=
  spareClear tagByte = true ∧ forceOf tagByte = false ∧ fieldAt body 0 1 ≤ 7 ∧
  fieldAt body 1 3 < 0x400000 ∧ 8 ≤ fieldAt body 4 1 ∧ fieldAt body 4 1 ≤ 22 ∧
  fieldAt body 1 3 % 2 ^ fieldAt body 4 1 = 0 ∧ fieldAt body 5 1 ≤ 5 ∧
  1 ≤ fieldAt body 6 1 ∧ fieldAt body 6 1 ≤ 3 ∧ 1 ≤ fieldAt body 7 1 ∧ fieldAt body 7 1 ≤ 3 ∧
  fieldAt body 8 1 ≤ 3 ∧ 1 ≤ fieldAt body 9 1 ∧ fieldAt body 9 1 ≤ 32 ∧ fieldAt body 10 1 ≤ 3 ∧
  16 ≤ fieldAt body 11 2 ∧ fieldAt body 11 2 ≤ 4096 ∧ fieldAt body 13 1 ≤ 7 ∧ fieldAt body 14 1 ≤ 15 ∧
  1 ≤ fieldAt body 15 2 ∧ fieldAt body 15 2 ≤ 1023 ∧ 2 ≤ fieldAt body 17 1 ∧ fieldAt body 17 1 ≤ 15 ∧
  1 ≤ fieldAt body 18 1 ∧ fieldAt body 18 1 ≤ 15 ∧ 1 ≤ fieldAt body 19 2 ∧ fieldAt body 21 1 ≤ 3 ∧
  1 ≤ fieldAt body 22 1 ∧ fieldAt body 22 1 ≤ 2

/-- A unit size code that is listed (R170). -/
def unitCode (n : Nat) : Prop := n = 1 ∨ n = 2 ∨ n = 4

/-- Every field of a WATCH_SET body of 18 bytes passes check 1 of R98, with `tagOk` for the tag byte (R98, R170). -/
def watchSetInRange (tagOk : Bool) (body : List Byte) : Prop :=
  tagOk = true ∧ fieldAt body 0 1 ≤ 31 ∧ fieldAt body 1 3 < 0x400000 ∧ unitCode (fieldAt body 4 1) ∧
  fieldAt body 5 1 ≤ 2 ∧ fieldAt body 6 4 < 2 ^ (8 * fieldAt body 4 1) ∧
  fieldAt body 10 4 < 2 ^ (8 * fieldAt body 4 1) ∧ 1 ≤ fieldAt body 14 1 ∧ 1 ≤ fieldAt body 15 1 ∧
  fieldAt body 15 1 ≤ 15 ∧ 1 ≤ fieldAt body 16 1 ∧ fieldAt body 16 1 ≤ 15 ∧ fieldAt body 17 1 ≤ 7

/-- The LEN an immediate kind requires (R170). -/
def Kind.immediateLength : Kind → Option Nat
  | .windowQuery => some 1
  | .watchQuery => some 1
  | .countersRead => some 1
  | .historyRead => some 2
  | .status => some 0
  | .identify => some 0
  | .noticeAck => some 2
  | .abort => some 1
  | .restart => some 0
  | _ => none

/-- A tagged request is new under this tag byte (R145): its tag is EMPTY, or DONE with the other phase. -/
def State.isNew (s : State) (tagByte : Byte) (tag : Tag) : Prop :=
  tagOf? tagByte = some tag ∧
    (s.tagOf tag = .empty ∨ ∃ r, s.tagOf tag = .done (!phaseOf tagByte) r)

/-- The reply of one status byte and no more (R171). -/
def plainReply (k : Kind) (tagByte : Byte) (status : Status) : Reply :=
  { kind := replyKind k.code, tagByte := tagByte, body := [status.code] }

/-- Right after a reset has ended (R1, R21, R40, R43, R95, R102, R116, R119, R130, R140, R143, R158, R162, R169): initial
values, the poll tick and interval timers started afresh, the BOOT notice as number 1 on TXD, and the bus IDLE, or lent
at once to a master that asserts LREQn. -/
def State.justBooted (t : State) (cause : ResetCause) (rate : BitVec 2) (lreq : Bool) : Prop :=
  t.phase = .running ∧ t.rate = rate ∧ t.lreq = lreq ∧
  (∀ w : WinId, t.window w = Window.reset ∧ t.statsOf w = WindowStats.zero) ∧
  t.bus = (if lreq then { Bus.reset with state := .lent, lendCount := 1 } else Bus.reset) ∧
  t.queue = [] ∧ t.linkGrants = 0 ∧
  (∀ id : WatchId, t.watchOf id = none) ∧ t.pollQueue = [] ∧ t.pollTimer = 500000 ∧
  t.intervalNumber = 0 ∧ t.intervalTimer = 50000000 ∧
  t.notices =
    { queue := [{ number := 1, kind := .boot, subject := 0, data := [cause.code], lost := 0, sent := true }],
      next := 2, lost := 0, link := .live, resendCount := 0, resendTimer := none, resendDue := false } ∧
  t.tracker = Tracker.reset ∧
  t.timing = { pollTick := 10, interval := 1, lifetime := 1000, pollShare := 4, resendInterval := 500,
               resendLimit := 5 } ∧
  t.rx = Receiver.reset ∧
  t.tx.lastServed = .notice ∧
  t.tx.frame.map TxFrame.bytes =
    some (frameBytes 0xF0#8 0x00#8 [0x00#8, 0x01#8, 0x01#8, 0x00#8, 0x00#8, 0x00#8, cause.code])

end Sys2Proof.Machine
end

