-- ==== Sys2Proof/Certificates/Slice0/Obligations.lean ====
section
/-! DEFINITION. The statements about the AW4210 that are to be proved. Terms: `answered`, `hasStored`, `offWire` and
the laws of Sys2Proof/Safety.lean. `t.offWire = x.offWire` is a frame: outside the reply lists, the sent marks of
notices, resend due and the transmitter, `t` is `x`. -/

open Sys2Proof Sys2Proof.Machine

/-! ## Steps -/

/-- A step takes the command at the front of the queue and runs it on the rest. -/
def Obligations.StepTakesFrontCommand : Prop :=
  ∀ (s : State) (c : Instr) (rest : List Instr),
    s.pending = c :: rest → step s = exec c { s with pending := rest }

/-- On an empty queue the internal event that is due is taken, else one bus period passes: the poll tick, interval,
resend and gap timers, a retry wait, a RECLAIM and the remaining time of the frame in transmission count down, the
access in progress grows by one period, and the release-gap record falls by one outside an access (R32). A choice of
the FREE transmitter that is still open is made first. The choice to run on by itself, and the units of the link times,
are the model's (notes/assumptions/2.md, 14.md). -/
def Obligations.EmptyQueueLetsTimePass : Prop :=
  (∀ (s : State) (c : Instr), s.pending = [] → s.dueEvent = some c → step s = exec c s) ∧
  (∀ s : State, s.pending = [] → s.phase = .running → s.dueEvent = none →
    ∃ t, step s = .next t ∧ t.now = s.now + 1 ∧ t.pollTimer = s.pollTimer - 1 ∧
      t.intervalTimer = s.intervalTimer - 1 ∧ t.windows = s.windows ∧ t.queue = s.queue ∧ t.watch = s.watch ∧
      t.stats = s.stats ∧ t.bus.turn = s.bus.turn ∧ t.bus.lendPending = s.bus.lendPending ∧
      (∀ g, s.bus.gapRecord = some g → (∀ a, s.bus.state ≠ .access a) →
        t.bus.gapRecord = if g.remaining ≤ 1 then none else some { g with remaining := g.remaining - 1 }) ∧
      (∀ n, s.bus.state = .reclaim n → t.bus.state = .reclaim (n - 1)) ∧
      (∀ n, s.bus.state = .retryWait n → t.bus.state = .retryWait (n - 1)) ∧
      (∀ a, s.bus.state = .access a → t.bus.state = .access { a with elapsed := a.elapsed + 1 }) ∧
      ((s.bus.state = .idle ∨ s.bus.state = .gap ∨ s.bus.state = .lent) → t.bus.state = s.bus.state) ∧
      t.notices = { s.transmit.notices with resendTimer := s.notices.resendTimer.map fun n => n - 1 } ∧
      t.rx = { s.rx with gapTimer := s.rx.gapTimer.map fun n => n - Config.linkUnitsPerPeriod } ∧
      t.tx = { s.transmit.tx with
        frame := s.transmit.tx.frame.map fun f => { f with remaining := f.remaining - Config.linkUnitsPerPeriod } } ∧
      t.tracker = s.transmit.tracker)

/-- No command stops the block, and none touches the queue of waiting commands: every command answers a next state. -/
def Obligations.EveryCommandGoesOn : Prop :=
  ∀ (c : Instr) (s : State), ∃ t, exec c s = .next t ∧ t.pending = s.pending

/-! ## Reset -/

/-- POWER_ON with RSTn high, and RSTN_WITHDRAWN, leave every initial value, the poll tick and interval timers started
afresh, the straps sampled, the BOOT notice with the cause of the reset on TXD, and the bus lent at once to a master
that asserts LREQn (R40, R102, R119, R140, R158). POWER_ON
while RSTn is asserted keeps the part in reset with the cause POWER_ON (R140; notes/assumptions/12.md). -/
def Obligations.ResetEndBoots : Prop :=
  (∀ (s : State) (rate : BitVec 2), s.phase = .running →
     ∃ t, exec (.powerOn rate) s = .next t ∧ t.justBooted .powerOn rate s.lreq) ∧
  (∀ (s : State) (rate : BitVec 2) (cause : ResetCause), s.phase = .inReset cause →
     ∃ t, exec (.rstnWithdrawn rate) s = .next t ∧ t.justBooted cause rate s.lreq) ∧
  (∀ (s : State) (rate : BitVec 2) (cause : ResetCause), s.phase = .inReset cause →
     ∃ t, exec (.powerOn rate) s = .next t ∧ t.phase = .inReset .powerOn ∧
       ∀ ready, t.pins ready = { drive := none, lgnt := false })

/-- RSTN_ASSERTED releases the bus, withdraws LGNTn, cuts the access, the lend, the frame in collection and the frame
in transmission, TXD going high, and leaves no outcome of the cut access (R40, R162, R168, R169). That every block holds
its initial values already at the assertion is the model's reading (notes/assumptions/11.md). -/
def Obligations.ResetPinCutsEverything : Prop :=
  ∀ s : State, s.phase = .running →
    ∃ t, exec .rstnAsserted s = .next t ∧ t.phase = .inReset .resetPin ∧
      (∀ ready, t.pins ready = { drive := none, lgnt := false }) ∧ t.bus = Bus.reset ∧ t.queue = [] ∧ t.rx = Receiver.reset ∧
      t.tx = Transmitter.reset ∧ t.txd = true ∧ t.tracker = Tracker.reset ∧ t.notices.queue = [] ∧
      (∀ w : WinId, t.statsOf w = WindowStats.zero ∧ t.window w = Window.reset) ∧ t.lreq = s.lreq

/-- While RSTn is asserted no command but the end of the reset and a power-on acts on a block; only the level of LREQn
is followed (R40; the model's reading, notes/assumptions/11.md). -/
def Obligations.NothingActsInReset : Prop :=
  ∀ (s : State) (c : Instr) (cause : ResetCause), s.phase = .inReset cause →
    (∀ rate, c ≠ .powerOn rate) → (∀ rate, c ≠ .rstnWithdrawn rate) →
    exec c s = .next { s with
      lreq := if c = .lreqnAsserted then true else if c = .lreqnWithdrawn then false else s.lreq }

/-! ## Link receiver -/

/-- RECEIVER_START ends the wait after reset, RXD_HIGH_AFTER_BREAK the wait after a low stop bit, and no character is
taken while the receiver waits for RXD (R159). The gap timer's expiry discards the frame in collection, counts
TRUNCATED and rescans nothing (R164). Nothing else changes. -/
def Obligations.ReceiverWaits : Prop :=
  (∀ s : State, s.phase = .running →
     (s.rx.line = .waitIdle → ∃ t, exec .receiverStart s = .next t ∧
       t.offWire = { s with rx := { s.rx with line := .looking } }.offWire) ∧
     (s.rx.line = .waitHigh → ∃ t, exec .rxdHighAfterBreak s = .next t ∧
       t.offWire = { s with rx := { s.rx with line := .looking } }.offWire)) ∧
  (∀ (s : State) (b : Byte) (stopHigh : Bool), s.phase = .running → s.rx.line ≠ .looking →
     ∃ t, exec (.byteArrival b stopHigh) s = .next t ∧ t.offWire = s.offWire) ∧
  (∀ (s : State) (n : Nat), s.phase = .running → s.rx.gapTimer = some n →
     ∃ t, exec .gapTimerExpiry s = .next t ∧
       t.offWire =
         { s with
           rx := { s.rx with held := [], gapTimer := none, truncated := min (s.rx.truncated + 1) 65535 } }.offWire)

/-- What a byte from RXD does to the frame receiver (R159, R162, R164, R165). In HUNT C3h is held as SYNC and starts
the gap timer, and any other byte is discarded. In LENGTH and COLLECT a byte that does not end the frame is held and
restarts the gap timer. A whole frame whose CRC differs is discarded and counted, and its bytes after the SYNC are
rescanned: without a further SYNC all are discarded; from a further SYNC on they are held while the frame they start is
not whole, the gap timer running; and when they are a good frame, it is handed over after the discard, as UNKNOWN_KIND
of its KIND byte, listed or not, which for a listed KIND is the model's reading (notes/assumptions/10.md). In every
case, a further OVERSIZE, a further wrong CRC and bytes behind a good frame among them (R163, R165), the rescan does what
the arrival of the same bytes in order from HUNT does. A low stop bit makes the receiver wait for RXD high. -/
def Obligations.ReceiverDiscards : Prop :=
  (∀ (s : State) (b : Byte) (stopHigh : Bool), s.phase = .running → s.rx.line = .looking → s.rx.held = [] →
     ∃ t, exec (.byteArrival b stopHigh) s = .next t ∧
       t.offWire =
         { s with
           rx := { s.rx with
             line := if stopHigh then .looking else .waitHigh,
             held := if b = 0xC3#8 then [b] else [],
             gapTimer := if b = 0xC3#8 then some (32 * bitTime s.rate) else none } }.offWire) ∧
  (∀ (s : State) (b len : Byte) (rest : List Byte) (stopHigh : Bool), s.phase = .running → s.rx.line = .looking →
     s.rx.held ++ [b] = 0xC3#8 :: len :: rest → len.toNat ≤ 240 →
     (rest.length < len.toNat + 4 →
       ∃ t, exec (.byteArrival b stopHigh) s = .next t ∧
         t.offWire =
           { s with
             rx := { s.rx with
               line := if stopHigh then .looking else .waitHigh,
               held := s.rx.held ++ [b], gapTimer := some (32 * bitTime s.rate) } }.offWire) ∧
     (rest.length = len.toNat + 4 → crcMatches (0xC3#8 :: len :: rest) = false →
       ((∀ x ∈ len :: rest, x ≠ 0xC3#8) →
         ∃ t, exec (.byteArrival b stopHigh) s = .next t ∧
           t.offWire =
             { s with
               rx := { s.rx with
                 line := if stopHigh then .looking else .waitHigh,
                 held := [], gapTimer := none, badCrc := min (s.rx.badCrc + 1) 65535 } }.offWire) ∧
       (∀ before after : List Byte, len :: rest = before ++ 0xC3#8 :: after → (∀ x ∈ before, x ≠ 0xC3#8) →
         ((after = [] ∨ ∃ len' rest', after = len' :: rest' ∧ len'.toNat ≤ 240 ∧ rest'.length < len'.toNat + 4) →
           ∃ t, exec (.byteArrival b stopHigh) s = .next t ∧
             t.offWire =
               { s with
                 rx := { s.rx with
                   line := if stopHigh then .looking else .waitHigh,
                   held := 0xC3#8 :: after, gapTimer := some (32 * bitTime s.rate),
                   badCrc := min (s.rx.badCrc + 1) 65535 } }.offWire) ∧
         (∀ (kind tagByte : Byte) (body : List Byte), body.length ≤ 240 →
           0xC3#8 :: after = frameBytes kind tagByte body →
           exec (.byteArrival b stopHigh) s =
             exec (.unknownKind kind tagByte body)
               { s with
                 rx := { s.rx with
                   line := if stopHigh then .looking else .waitHigh,
                   held := [], gapTimer := none, badCrc := min (s.rx.badCrc + 1) 65535 } })) ∧
       (s.settled →
         ∃ t, State.fed (len :: rest)
             { s with
               rx := { s.rx with held := [], gapTimer := none, badCrc := min (s.rx.badCrc + 1) 65535 } } t ∧
           exec (.byteArrival b stopHigh) s =
             .next { t with rx := { t.rx with line := if stopHigh then .looking else .waitHigh } })))

/-- A LEN above 240 (R163): the frame is discarded and counted, its LEN byte is discarded in HUNT, and the gap timer
stops. -/
def Obligations.OversizeDiscards : Prop :=
  ∀ (s : State) (b : Byte) (stopHigh : Bool), s.phase = .running → s.rx.line = .looking → s.rx.held = [0xC3#8] →
    240 < b.toNat →
    ∃ t, exec (.byteArrival b stopHigh) s = .next t ∧ t.rx.state = .hunt ∧
      t.offWire =
        { s with
          rx := { s.rx with
            line := if stopHigh then .looking else .waitHigh,
            held := [], gapTimer := none, oversize := min (s.rx.oversize + 1) 65535 } }.offWire

/-- Sending and receiving agree: when the bytes held and the byte that arrives are the frame the transmitter would
send for a KIND, a tag byte and a body of at most 240 bytes, that arrival is the arrival of exactly that KIND, tag
byte and body (R160, R161, R162, R165, R166); and the frame of a listed KIND is the command of that kind (R144, R170).
That UNKNOWN_KIND with a listed KIND acts as that kind is the model's reading (notes/assumptions/10.md). -/
def Obligations.ReceivedFrameIsItsCommand : Prop :=
  ∀ (s : State) (kind tagByte : Byte) (body : List Byte) (b : Byte) (stopHigh : Bool),
    s.phase = .running → s.rx.line = .looking → body.length ≤ 240 →
    s.rx.held ++ [b] = frameBytes kind tagByte body →
    (let taken : State :=
        { s with rx := { s.rx with line := if stopHigh then .looking else .waitHigh, held := [], gapTimer := none } }
     exec (.byteArrival b stopHigh) s = exec (.unknownKind kind tagByte body) taken ∧
       ∀ k : Kind, k.code = kind → exec (.byteArrival b stopHigh) s = exec (k.command tagByte body) taken)

/-! ## Transmitter -/

/-- The choice of a FREE transmitter (R168): an immediate reply first, then the source that was not last served, then
the one that waits. The due notice (R134): none in DEAF and on an empty queue; in LIVE the oldest notice when resend due
is set, and else the oldest one with sent clear. -/
def Obligations.TransmitterChoice : Prop :=
  (∀ s : State, s.tx.frame = none →
    (∀ r rest, s.tracker.immediate = r :: rest →
      s.transmit.sending r ∧ s.transmit.tracker.immediate = rest ∧
      s.transmit.tx.lastServed = s.tx.lastServed) ∧
    (∀ r, s.tracker.immediate = [] → s.outgoingReply = some r →
      (s.notices.due = none ∨ s.tx.lastServed = .notice) →
      s.transmit.sending r ∧ s.transmit.tracker.outgoing = s.tracker.outgoing.tail ∧
      s.transmit.tx.lastServed = .replyList ∧ s.transmit.tracker.tags = s.tracker.tags) ∧
    (∀ n, s.tracker.immediate = [] → s.notices.due = some n →
      (s.outgoingReply = none ∨ s.tx.lastServed = .replyList) →
      (s.transmit.tx.frame.map fun f => (f.bytes, f.notice)) =
        some (frameBytes 0xF0#8 0x00#8 n.toBytes, some n.number) ∧
      s.transmit.tx.lastServed = .notice ∧ s.transmit.notices.resendDue = false ∧
      (∀ x ∈ s.transmit.notices.queue, x.number = n.number → x.sent = true))) ∧
  (∀ u : NoticeUnit,
    (u.link = .deaf → u.due = none) ∧ (u.queue = [] → u.due = none) ∧
    (∀ oldest younger, u.link = .live → u.resendDue = true → u.queue = oldest :: younger → u.due = some oldest) ∧
    (∀ older n younger, u.link = .live → u.resendDue = false → u.queue = older ++ n :: younger →
      (∀ x ∈ older, x.sent = true) → n.sent = false → u.due = some n) ∧
    (u.link = .live → u.resendDue = false → (∀ x ∈ u.queue, x.sent = true) → u.due = none))

/-- After every command of a running state a FREE transmitter has made its choice: a frame is in transmission, or nothing
waits (R168). FRAME_END: the frame is gone and the transmitter, FREE, makes its choice anew; with nothing waiting no
frame is in transmission. After a notice frame the resend timer starts if its notice is the oldest and the unit is LIVE,
and nothing else of the notice unit changes before that choice (R135, R168, R169). TXD is high in reset and while the
transmitter is FREE. In a frame its characters follow each other without a pause, each a low start bit, its data bits 0
to 7 and a high stop bit of one bit-time each: bit k of character i is on TXD while the remaining time lies in its
bit-time (R158, R169). -/
def Obligations.FrameEndFreesTransmitter : Prop :=
  (∀ (s t : State) (c : Instr), s.phase = .running → exec c s = .next t →
    t.settled) ∧
  (∀ (s : State) (f : TxFrame), s.phase = .running → s.tx.frame = some f →
    ∀ unit : NoticeUnit,
      unit = (if s.notices.link = .live ∧ f.notice.isSome = true ∧
            f.notice = s.notices.queue.head?.map Notice.number then
          { s.notices with resendTimer := some (s.timing.resendInterval * 50000), resendDue := false }
        else s.notices) →
      ∃ t, exec .frameEnd s = .next t ∧
        t = ({ s with tx := { frame := none, lastServed := s.tx.lastServed }, notices := unit } : State).transmit ∧
        t.offWire = { s with notices := unit }.offWire ∧ t.settled ∧
        (s.tracker.immediate = [] → s.outgoingReply = none → unit.due = none → t.tx.frame = none ∧ t.txd = true)) ∧
  (∀ (s : State) (cause : ResetCause), s.phase = .inReset cause → s.txd = true) ∧
  (∀ s : State, s.phase = .running → s.tx.frame = none → s.txd = true) ∧
  (∀ (s : State) (f : TxFrame) (i k : Nat) (b : Byte), s.phase = .running → s.tx.frame = some f →
    f.bytes[i]? = some b → k < 10 →
    (let left := (f.bytes.length * 10 - (i * 10 + k)) * bitTime s.rate
     left - bitTime s.rate < f.remaining → f.remaining ≤ left →
     s.txd = if k = 0 then false else if k = 9 then true else b.getLsbD (k - 1)))

/-- Commands that send nothing leave the transmitter, the tracker and the notice unit as the choice that was open
leaves them (R168); an immediate request other than ABORT and RESTART leaves the outgoing reply list so (R152). -/
def Obligations.WireIsLeftAlone : Prop :=
  (∀ (s : State) (c : Instr), s.phase = .running →
    (c = .receiverStart ∨ c = .rxdHighAfterBreak ∨ c = .gapTimerExpiry ∨ c = .gapEnd ∨ c = .retryWaitEnd ∨
      (∃ tag, c = .backoffEnd tag) ∨ c = .lreqnAsserted ∨ c = .lendTaken ∨ c = .lreqnWithdrawn ∨
      c = .reclaimEnd ∨ c = .pollTick) →
    ∃ t, exec c s = .next t ∧ t.tx = s.transmit.tx ∧ t.tracker = s.transmit.tracker ∧
      t.notices = s.transmit.notices) ∧
  (∀ (s : State) (k : Kind) (tagByte : Byte) (body : List Byte), s.phase = .running → k.isTagged = false →
    k ≠ .abort → k ≠ .restart →
    ∃ t, exec (k.command tagByte body) s = .next t ∧ t.tracker.outgoing = s.transmit.tracker.outgoing ∧
      t.tracker.tags = s.tracker.tags)

/-! ## Tags -/

/-- A KIND that is not listed is answered UNKNOWN_KIND, and the tag table is not consulted; a tagged kind with tag 0
is answered BAD_TAG (R144, R171). -/
def Obligations.UnlistedKindAndTagZero : Prop :=
  (∀ (s : State) (kind tagByte : Byte) (body : List Byte), s.phase = .running →
     requestKindCodes.contains kind = false →
     ∃ t, exec (.unknownKind kind tagByte body) s = .next t ∧ t.offWire = s.hear.offWire ∧
       s.answered t { kind := kind ^^^ 0x80#8, tagByte := tagByte, body := [0x01#8] }) ∧
  (∀ (s : State) (k : Kind) (tagByte : Byte) (body : List Byte), s.phase = .running → k.isTagged = true →
     tagByte.toNat % 16 = 0 →
     ∃ t, exec (k.command tagByte body) s = .next t ∧ t.offWire = s.hear.offWire ∧
       s.answered t (plainReply k tagByte .badTag))

/-- A frame of a tagged kind under a tag that is not EMPTY (R145): ignored and counted, answered TAG_BUSY, or its
stored reply listed again. -/
def Obligations.RetransmissionIsNotRepeated : Prop :=
  ∀ (s : State) (k : Kind) (tagByte : Byte) (tag : Tag) (body : List Byte), s.phase = .running →
    k.isTagged = true → tagOf? tagByte = some tag →
    (s.tagOf tag = .pending (phaseOf tagByte) →
      ∃ t, exec (k.command tagByte body) s = .next t ∧
        t.offWire =
          { s.hear with
            tracker := { s.tracker with duplicates := min (s.tracker.duplicates + 1) 65535 } }.offWire) ∧
    (s.tagOf tag = .pending (!phaseOf tagByte) →
      ∃ t, exec (k.command tagByte body) s = .next t ∧ t.offWire = s.hear.offWire ∧
        s.answered t (plainReply k tagByte .tagBusy)) ∧
    (∀ r, s.tagOf tag = .done (phaseOf tagByte) r →
      ∃ t, exec (k.command tagByte body) s = .next t ∧ t.offWire = s.hear.offWire ∧
        t.hasStored tag (phaseOf tagByte) r)

/-! ## READ, WRITE and SEQUENCE -/

/-- A new READ, WRITE or SEQUENCE that passes R71 joins the queue, WAITING, bound to the window of its first unit,
with its deadline, and its tag becomes PENDING (R44, R71, R149). -/
def Obligations.BusRequestAccepted : Prop :=
  ∀ (s : State) (k : Kind) (tagByte : Byte) (tag : Tag) (body : List Byte) (r : LinkRequest) (w : WinId),
    s.phase = .running → k = .read ∨ k = .write ∨ k = .sequence → s.isNew tagByte tag →
    k.busBody tagByte body = .ok r → s.firstWindow r = some w →
    r.permittedBy (s.window w).fields.rights = true → r.aligned = true → r.inside (s.window w) = true →
    (forceOf tagByte = true ∨ (s.window w).health.state ≠ .failed) → s.queue.length < 12 →
    ∃ t, exec (k.command tagByte body) s = .next t ∧
      t.offWire =
        ({ s.hear with
            queue := s.queue ++
              [{ tag := tag, phase := phaseOf tagByte, force := forceOf tagByte, window := w, request := r,
                 deadline := if s.timing.lifetime = 0 then none
                   else some { time := s.now + s.timing.lifetime * 50000, passed := false },
                 state := .waiting, retryCount := 0, retryTime := none, stopRequested := false, done := 0,
                 accessIndex := 0, held := 0, results := [] : LinkEntry }] }.setTag tag
              (.pending (phaseOf tagByte))).offWire

/-- A new READ, WRITE or SEQUENCE that fails a check is refused with the status of the first check that fails, its
progress byte 00h, and nothing but its tag changes (R71, R147, R171). The bodies that fail the length check with
BAD_LENGTH and those that fail the field check with BAD_FIELD are the ones of R68 to R71 and R170. The refusal BAD_LENGTH
of a WRITE that ends before its unit size, or before its count, of an empty SEQUENCE, and of a SEQUENCE cut inside the
three fields of a step with an invalid operation is the model's reading (notes/assumptions/9.md). -/
def Obligations.BusRequestRefused : Prop :=
  (∀ (s : State) (k : Kind) (tagByte : Byte) (tag : Tag) (body : List Byte) (status : Status),
    s.phase = .running → k = .read ∨ k = .write ∨ k = .sequence → s.isNew tagByte tag →
    (k.busBody tagByte body = .error status ∨
      (∃ r, k.busBody tagByte body = .ok r ∧
        ((s.firstWindow r = none ∧ status = .unmapped) ∨
          (∃ w, s.firstWindow r = some w ∧
            ((r.permittedBy (s.window w).fields.rights = false ∧ status = .accessDenied) ∨
              (r.permittedBy (s.window w).fields.rights = true ∧ r.aligned = false ∧ status = .misaligned) ∨
              (r.permittedBy (s.window w).fields.rights = true ∧ r.aligned = true ∧
                r.inside (s.window w) = false ∧
                status = if k = .sequence then .badSequence else .unmapped) ∨
              (r.permittedBy (s.window w).fields.rights = true ∧ r.aligned = true ∧
                r.inside (s.window w) = true ∧ forceOf tagByte = false ∧
                (s.window w).health.state = .failed ∧ status = .windowFailed) ∨
              (r.permittedBy (s.window w).fields.rights = true ∧ r.aligned = true ∧
                r.inside (s.window w) = true ∧
                (forceOf tagByte = true ∨ (s.window w).health.state ≠ .failed) ∧
                12 ≤ s.queue.length ∧ status = .queueFull)))))) →
    ∃ t, exec (k.command tagByte body) s = .next t ∧
      t.offWire =
        (s.hear.setTag tag (.done (phaseOf tagByte)
          { kind := replyKind k.code, tagByte := tagByte, body := [status.code, 0x00#8] })).offWire ∧
      t.hasStored tag (phaseOf tagByte)
        { kind := replyKind k.code, tagByte := tagByte, body := [status.code, 0x00#8] }) ∧
  (∀ (tagByte : Byte) (body : List Byte),
    (body.length ≠ 6 → Kind.read.busBody tagByte body = .error .badLength) ∧
    (body.length = 6 →
      (spareClear tagByte = false ∨ 0x400000 ≤ fieldAt body 0 3 ∨ ¬ unitCode (fieldAt body 3 1) ∨
        fieldAt body 4 1 = 0 ∨ 128 < fieldAt body 4 1 * fieldAt body 3 1 ∨ 2 ≤ fieldAt body 5 1) →
      Kind.read.busBody tagByte body = .error .badField)) ∧
  (∀ (tagByte : Byte) (body : List Byte),
    (body.length < 4 → Kind.write.busBody tagByte body = .error .badLength) ∧
    (4 ≤ body.length → ¬ unitCode (fieldAt body 3 1) → Kind.write.busBody tagByte body = .error .badField) ∧
    (4 ≤ body.length → unitCode (fieldAt body 3 1) → body.length ≠ 6 + fieldAt body 5 1 * fieldAt body 3 1 →
      Kind.write.busBody tagByte body = .error .badLength) ∧
    (unitCode (fieldAt body 3 1) → body.length = 6 + fieldAt body 5 1 * fieldAt body 3 1 →
      (spareClear tagByte = false ∨ 0x400000 ≤ fieldAt body 0 3 ∨ 2 ≤ fieldAt body 4 1 ∨
        fieldAt body 5 1 = 0 ∨ 128 < fieldAt body 5 1 * fieldAt body 3 1) →
      Kind.write.busBody tagByte body = .error .badField)) ∧
  (∀ tagByte : Byte, Kind.sequence.busBody tagByte [] = .error .badLength) ∧
  (∀ (tagByte count : Byte) (steps : List SeqStep) (more : List Byte),
    let body := count :: ((steps.map SeqStep.toBytes).flatten ++ more)
    (steps.length = count.toNat → more ≠ [] → Kind.sequence.busBody tagByte body = .error .badLength) ∧
    (steps.length = count.toNat → more = [] →
      (count.toNat = 0 ∨ 8 < count.toNat ∨ spareClear tagByte = false ∨
        ∃ st ∈ steps, 0x400000 ≤ st.address ∧ st.address < 0x1000000) →
      Kind.sequence.busBody tagByte body = .error .badField) ∧
    (steps.length < count.toNat → more.length < 5 → Kind.sequence.busBody tagByte body = .error .badLength) ∧
    (steps.length < count.toNat → 5 ≤ more.length →
      (4 ≤ fieldAt more 0 1 ∨ ¬ unitCode (fieldAt more 4 1)) →
      Kind.sequence.busBody tagByte body = .error .badField) ∧
    (∀ (op : StepOp) (unit : UnitSize), steps.length < count.toNat → 5 ≤ more.length →
      fieldAt more 0 1 = op.code → fieldAt more 4 1 = unit.bytes →
      more.length < 5 + op.operands.length * unit.bytes →
      Kind.sequence.busBody tagByte body = .error .badLength))

/-- Bus data reads back. What the layouts of R68 to R70 and R170 spell for valid operands of a READ, WRITE or SEQUENCE
is read as those operands; a unit written with a value and read from a device that stores it unchanged gives that
value (R11, R12, R67). -/
def Obligations.BusDataReadsBack : Prop :=
  (∀ (tagByte : Byte) (address : Nat) (unit : UnitSize) (mode : AddrMode) (count : Nat),
    spareClear tagByte = true → address < 0x400000 → 1 ≤ count → count * unit.bytes ≤ 128 →
    Kind.read.busBody tagByte
        (be3 address ++ be1 unit.bytes ++ be1 count ++ be1 (if mode = .fixed then 1 else 0)) =
      .ok (.read address unit count mode)) ∧
  (∀ (tagByte : Byte) (address : Nat) (unit : UnitSize) (mode : AddrMode) (data : List Value),
    spareClear tagByte = true → address < 0x400000 → 1 ≤ data.length → data.length * unit.bytes ≤ 128 →
    (∀ v ∈ data, v.toNat < 2 ^ (8 * unit.bytes)) →
    Kind.write.busBody tagByte
        (be3 address ++ be1 unit.bytes ++ be1 (if mode = .fixed then 1 else 0) ++ be1 data.length ++
          (data.map unit.toBytes).flatten) =
      .ok (.write address unit mode data)) ∧
  (∀ (tagByte : Byte) (steps : List SeqStep), spareClear tagByte = true → 1 ≤ steps.length → steps.length ≤ 8 →
    (∀ st ∈ steps, st.address < 0x400000 ∧ ∀ v ∈ st.op.operands, v.toNat < 2 ^ (8 * st.unit.bytes)) →
    Kind.sequence.busBody tagByte
        (be1 steps.length ++
          (steps.map fun st =>
            be1 st.op.code ++ be3 st.address ++ be1 st.unit.bytes ++
              (st.op.operands.map st.unit.toBytes).flatten).flatten) =
      .ok (.sequence steps)) ∧
  (∀ (lane : Lane) (unit : UnitSize) (a : Nat) (v : Value), lane ≠ .unset → a % unit.bytes = 0 →
    v.toNat < 2 ^ (8 * unit.bytes) →
    (List.range (lane.accesses unit)).foldl
      (fun held i => held ||| (lane.piece unit a i).sample ((lane.piece unit a i).drive v)) 0 = v)

/-! ## Window requests -/

/-- WINDOW_SET at acceptance (R14): every field in range is queued bound to the window it names, WAITING, with its
deadline; the window table is unchanged. A body of another length is refused BAD_LENGTH, a field out of its range, a
spare bit or FORCE BAD_FIELD, and one that passes while 12 entries are queued QUEUE_FULL (R14, R170). -/
def Obligations.WindowSetAccepted : Prop :=
  (∀ (s : State) (tagByte : Byte) (tag : Tag) (w : WinId) (f : WindowFields), s.phase = .running →
    s.isNew tagByte tag → spareClear tagByte = true → forceOf tagByte = false → f.inRange = true →
    s.queue.length < 12 →
    ∃ t, exec (.windowSet tagByte (be1 w.val ++ f.toBytes)) s = .next t ∧
      t.offWire =
        ({ s.hear with
            queue := s.queue ++
              [{ tag := tag, phase := phaseOf tagByte, force := false, window := w, request := .windowSet f,
                 deadline := if s.timing.lifetime = 0 then none
                   else some { time := s.now + s.timing.lifetime * 50000, passed := false },
                 state := .waiting, retryCount := 0, retryTime := none, stopRequested := false, done := 0,
                 accessIndex := 0, held := 0, results := [] : LinkEntry }] }.setTag tag
              (.pending (phaseOf tagByte))).offWire) ∧
  (∀ (s : State) (tagByte : Byte) (tag : Tag) (body : List Byte), s.phase = .running → s.isNew tagByte tag →
    (body.length ≠ 23 →
      ∃ t, exec (.windowSet tagByte body) s = .next t ∧
        s.refusedWith t tag tagByte (plainReply .windowSet tagByte .badLength)) ∧
    (body.length = 23 → ¬ windowSetInRange tagByte body →
      ∃ t, exec (.windowSet tagByte body) s = .next t ∧
        s.refusedWith t tag tagByte (plainReply .windowSet tagByte .badField)) ∧
    (body.length = 23 → windowSetInRange tagByte body → 12 ≤ s.queue.length →
      ∃ t, exec (.windowSet tagByte body) s = .next t ∧
        s.refusedWith t tag tagByte (plainReply .windowSet tagByte .queueFull)))

/-- WINDOW_CLOSE at acceptance (R15): a window number above 7 or FORCE set refuses it BAD_FIELD; one that passes is
queued as a WINDOW_SET is, whatever the state and health of the window, or refused QUEUE_FULL. -/
def Obligations.WindowCloseAccepted : Prop :=
  ∀ (s : State) (tagByte : Byte) (tag : Tag) (n : Byte), s.phase = .running → s.isNew tagByte tag →
    spareClear tagByte = true →
    ((7 < n.toNat ∨ forceOf tagByte = true) →
      ∃ t, exec (.windowClose tagByte [n]) s = .next t ∧
        t.offWire = (s.hear.setTag tag (.done (phaseOf tagByte)
          (plainReply .windowClose tagByte .badField))).offWire ∧
        t.hasStored tag (phaseOf tagByte) (plainReply .windowClose tagByte .badField)) ∧
    (∀ w : WinId, n.toNat = w.val → forceOf tagByte = false → s.queue.length < 12 →
      ∃ t, exec (.windowClose tagByte [n]) s = .next t ∧
        t.offWire =
          ({ s.hear with
              queue := s.queue ++
                [{ tag := tag, phase := phaseOf tagByte, force := false, window := w, request := .windowClose,
                   deadline := if s.timing.lifetime = 0 then none
                     else some { time := s.now + s.timing.lifetime * 50000, passed := false },
                   state := .waiting, retryCount := 0, retryTime := none, stopRequested := false, done := 0,
                   accessIndex := 0, held := 0, results := [] : LinkEntry }] }.setTag tag
              (.pending (phaseOf tagByte))).offWire) ∧
    (∀ w : WinId, n.toNat = w.val → forceOf tagByte = false → 12 ≤ s.queue.length →
      ∃ t, exec (.windowClose tagByte [n]) s = .next t ∧
        t.offWire = (s.hear.setTag tag (.done (phaseOf tagByte)
          (plainReply .windowClose tagByte .queueFull))).offWire ∧
        t.hasStored tag (phaseOf tagByte) (plainReply .windowClose tagByte .queueFull))

/-- A WINDOW_SET takes effect (R16 to R18): the oldest item bound to an unused window, overlapping no other OPEN
window and keeping every watch entry of the window inside and readable, writes the fields, resets health and
statistics, and completes OK. A WINDOW_CLOSE takes effect (R16, R17, R19): with no watch entry in the window it closes
it, keeps its fields, resets health and statistics, and completes OK. The reply is stored, and its tag listed or the
reply on TXD (R149, R153). -/
def Obligations.WindowRequestTakesEffect : Prop :=
  (∀ (s : State) (w : WinId) (e : LinkEntry) (f : WindowFields), s.phase = .running → s.oldestOn w = some e →
     e.request = .windowSet f → s.inUse w = false →
     (∀ v : WinId, v ≠ w → (s.window v).isOpen = true → f.overlaps (s.window v).fields = false) →
     (∀ c ∈ s.watchersOf w, f.base ≤ c.address ∧ c.address + c.unit.bytes ≤ f.base + 2 ^ f.sizeExp ∧
       f.rights.permitsRead = true) →
     ∃ t, exec (.windowRequestTakesEffect w) s = .next t ∧
       t.offWire =
         ((({ s with queue := s.queue.filter (fun x : LinkEntry => x.tag ≠ e.tag) }.setWindow w
             { isOpen := true, fields := f, health := Health.fresh }).setStats w WindowStats.zero).setTag e.tag
           (.done e.phase { kind := 0xA0#8, tagByte := e.tagByte, body := [0x00#8] })).offWire ∧
       t.hasStored e.tag e.phase { kind := 0xA0#8, tagByte := e.tagByte, body := [0x00#8] }) ∧
  (∀ (s : State) (w : WinId) (e : LinkEntry), s.phase = .running → s.oldestOn w = some e →
     e.request = .windowClose → s.inUse w = false → s.watchersOf w = [] →
     ∃ t, exec (.windowRequestTakesEffect w) s = .next t ∧
       t.offWire =
         ((({ s with queue := s.queue.filter (fun x : LinkEntry => x.tag ≠ e.tag) }.setWindow w
             { isOpen := false, fields := (s.window w).fields, health := Health.fresh }).setStats w
               WindowStats.zero).setTag e.tag
           (.done e.phase { kind := 0xA1#8, tagByte := e.tagByte, body := [0x00#8] })).offWire ∧
       t.hasStored e.tag e.phase { kind := 0xA1#8, tagByte := e.tagByte, body := [0x00#8] })

/-- A window request that fails a check of R17 completes OVERLAP or WATCH_DEPENDS, its reply stored and its tag listed or
the reply on TXD (R149, R153), and changes nothing else; one that is behind an older item or whose window is in use
waits (R16, R17). -/
def Obligations.WindowRequestFailsOrWaits : Prop :=
  ∀ (s : State) (w : WinId) (e : LinkEntry), s.phase = .running → s.oldestOn w = some e →
    (∀ (f : WindowFields) (status : Status), e.request = .windowSet f → s.inUse w = false →
      (((∃ v : WinId, v ≠ w ∧ (s.window v).isOpen = true ∧ f.overlaps (s.window v).fields = true) ∧
          status = .overlap) ∨
        ((∀ v : WinId, v ≠ w → (s.window v).isOpen = true → f.overlaps (s.window v).fields = false) ∧
          (∃ c ∈ s.watchersOf w, ¬ (f.base ≤ c.address ∧ c.address + c.unit.bytes ≤ f.base + 2 ^ f.sizeExp ∧
            f.rights.permitsRead = true)) ∧ status = .watchDepends)) →
      ∃ t, exec (.windowRequestTakesEffect w) s = .next t ∧
        t.offWire =
          ({ s with queue := s.queue.filter (fun x : LinkEntry => x.tag ≠ e.tag) }.setTag e.tag
            (.done e.phase { kind := 0xA0#8, tagByte := e.tagByte, body := [status.code] })).offWire ∧
        t.hasStored e.tag e.phase { kind := 0xA0#8, tagByte := e.tagByte, body := [status.code] }) ∧
    (e.request = .windowClose → s.inUse w = false → s.watchersOf w ≠ [] →
      ∃ t, exec (.windowRequestTakesEffect w) s = .next t ∧
        t.offWire =
          ({ s with queue := s.queue.filter (fun x : LinkEntry => x.tag ≠ e.tag) }.setTag e.tag
            (.done e.phase { kind := 0xA1#8, tagByte := e.tagByte, body := [0x13#8] })).offWire ∧
        t.hasStored e.tag e.phase { kind := 0xA1#8, tagByte := e.tagByte, body := [0x13#8] }) ∧
    ((e.request.isBus = true ∨ s.inUse w = true) →
      ∃ t, exec (.windowRequestTakesEffect w) s = .next t ∧ t.offWire = s.offWire)

/-! ## Queries of the tables -/

/-- WINDOW_QUERY answers with the window entry, its health, its queued items and its block (R20). WATCH_QUERY answers
SLOT_EMPTY for an UNUSED id and the entry as it stands for an in-use one (R101). Neither changes anything. -/
def Obligations.TableQueriesAnswer : Prop :=
  (∀ (s : State) (tagByte : Byte) (w : WinId), s.phase = .running → spareClear tagByte = true →
     ∃ t, exec (.windowQuery tagByte (be1 w.val)) s = .next t ∧ t.offWire = s.hear.offWire ∧
       s.answered t
         { kind := 0xA2#8, tagByte := tagByte,
           body := 0x00#8 ::
             (be1 w.val ++ be1 (if (s.window w).isOpen then 1 else 0) ++ (s.window w).fields.toBytes ++
               be1 (s.window w).health.state.code ++ be1 (s.window w).health.failureRun ++
               be1 (s.window w).health.successRun ++
               be1 (s.queue.filter (fun e => decide (e.window = w))).length ++
               be1 (if s.queue.any (fun e => e.request.isBus && decide (e.window = w) &&
                 decide (e.state = .deferred)) then 1 else 0)) }) ∧
  (∀ (s : State) (tagByte : Byte) (id : WatchId), s.phase = .running → spareClear tagByte = true →
     ∃ t, exec (.watchQuery tagByte (be1 id.val)) s = .next t ∧ t.offWire = s.hear.offWire ∧
       (s.watchOf id = none → s.answered t (plainReply .watchQuery tagByte .slotEmpty)) ∧
       (∀ x w, s.watchOf id = some x → s.decode x.config.address = some w →
         s.answered t { kind := 0xB2#8, tagByte := tagByte, body := 0x00#8 :: x.toBytes id.val w.val }))

/-- COUNTERS_READ answers the statistics of an OPEN window (R126), HISTORY_READ the lesser of the record count and the
records held, newest first (R128); both answer WINDOW_CLOSED for a CLOSED window, and change nothing. -/
def Obligations.StatisticsReadsAnswer : Prop :=
  (∀ (s : State) (tagByte : Byte) (w : WinId), s.phase = .running → spareClear tagByte = true →
     ∃ t, exec (.countersRead tagByte (be1 w.val)) s = .next t ∧ t.offWire = s.hear.offWire ∧
       ((s.window w).isOpen = false → s.answered t (plainReply .countersRead tagByte .windowClosed)) ∧
       ((s.window w).isOpen = true →
         s.answered t
           { kind := 0xC0#8, tagByte := tagByte,
             body := 0x00#8 ::
               (be1 w.val ++ be4 s.intervalNumber ++ be1 (s.window w).health.state.code ++
                 be1 (s.window w).health.failureRun ++ be1 (s.window w).health.successRun ++
                 (s.statsOf w).counters.toBytes ++ (s.statsOf w).tallies.toBytes ++
                 be1 (if (s.statsOf w).failedSeen then 1 else 0) ++ be1 (s.statsOf w).ring.length) })) ∧
  (∀ (s : State) (tagByte : Byte) (w : WinId) (n : Nat), s.phase = .running → spareClear tagByte = true →
     1 ≤ n → n ≤ 8 →
     ∃ t, exec (.historyRead tagByte (be1 w.val ++ be1 n)) s = .next t ∧ t.offWire = s.hear.offWire ∧
       ((s.window w).isOpen = false → s.answered t (plainReply .historyRead tagByte .windowClosed)) ∧
       ((s.window w).isOpen = true →
         s.answered t
           { kind := 0xC2#8, tagByte := tagByte,
             body := 0x00#8 ::
               (be1 (min n (s.statsOf w).ring.length) ++
                 (((s.statsOf w).ring.reverse.take n).map Record.toBytes).flatten) }))

/-! ## Watch list -/

/-- WATCH_SET on an UNUSED id, at an aligned readable address of an OPEN window, puts the entry in use with countdown
1 and completes OK. One that fails a check of R98 is refused with the first check's status and changes nothing in the
watch list (R98). A body of another length fails with BAD_LENGTH, and one of the right length fails check 1 exactly when
a field is out of its range or a spare bit or FORCE is set; else its fields are read as they stand (R98, R170). -/
def Obligations.WatchSetStartsOrIsRefused : Prop :=
  (∀ (s : State) (tagByte : Byte) (tag : Tag) (body : List Byte) (id : WatchId) (c : WatchConfig) (w : WinId),
     s.phase = .running → s.isNew tagByte tag →
     readWatchSet (spareClear tagByte && !forceOf tagByte) body = .ok (id, c) → s.watchOf id = none →
     s.decode c.address = some w → (s.window w).fields.rights.permitsRead = true → c.address % c.unit.bytes = 0 →
     ∃ t, exec (.watchSet tagByte body) s = .next t ∧
       t.offWire =
         ((s.hear.setWatch id (some
           { config := c, countdown := 1, state := if c.mode = .track then .notSet else .quiet, stored := none,
             outstanding := false, pollsDone := 0, pollFaults := 0, pollDeferrals := 0, overruns := 0 })).setTag tag
           (.done (phaseOf tagByte) (plainReply .watchSet tagByte .ok))).offWire ∧
       t.hasStored tag (phaseOf tagByte) (plainReply .watchSet tagByte .ok)) ∧
  (∀ (s : State) (tagByte : Byte) (tag : Tag) (body : List Byte) (status : Status), s.phase = .running →
     s.isNew tagByte tag →
     (readWatchSet (spareClear tagByte && !forceOf tagByte) body = .error status ∨
       (∃ id c, readWatchSet (spareClear tagByte && !forceOf tagByte) body = .ok (id, c) ∧
         ((s.watchOf id ≠ none ∧ status = .slotInUse) ∨
           (s.watchOf id = none ∧ s.decode c.address = none ∧ status = .unmapped) ∨
           (s.watchOf id = none ∧ ∃ w, s.decode c.address = some w ∧
             (((s.window w).fields.rights.permitsRead = false ∧ status = .accessDenied) ∨
               ((s.window w).fields.rights.permitsRead = true ∧ c.address % c.unit.bytes ≠ 0 ∧
                 status = .misaligned)))))) →
     ∃ t, exec (.watchSet tagByte body) s = .next t ∧
       t.offWire = (s.hear.setTag tag (.done (phaseOf tagByte) (plainReply .watchSet tagByte status))).offWire ∧
       t.hasStored tag (phaseOf tagByte) (plainReply .watchSet tagByte status)) ∧
  (∀ (tagOk : Bool) (body : List Byte),
     (body.length ≠ 18 → readWatchSet tagOk body = .error .badLength) ∧
     (body.length = 18 → ¬ watchSetInRange tagOk body → readWatchSet tagOk body = .error .badField) ∧
     (body.length = 18 → watchSetInRange tagOk body →
       ∃ id c, readWatchSet tagOk body = .ok (id, c) ∧ id.val = fieldAt body 0 1 ∧ c.address = fieldAt body 1 3 ∧
         c.unit.bytes = fieldAt body 4 1 ∧ c.mode.code = fieldAt body 5 1 ∧ c.mask.toNat = fieldAt body 6 4 ∧
         c.reference.toNat = fieldAt body 10 4 ∧ c.period = fieldAt body 14 1 ∧ c.setCount = fieldAt body 15 1 ∧
         c.clearCount = fieldAt body 16 1 ∧ (c.notifyRaise = true ↔ fieldAt body 17 1 % 2 = 1) ∧
         (c.notifyClear = true ↔ fieldAt body 17 1 / 2 % 2 = 1) ∧
         (c.notifyChange = true ↔ fieldAt body 17 1 / 4 % 2 = 1)))

/-- WATCH_DROP of an in-use id frees the entry, removes its poll request and orphans its poll turn; of an UNUSED id it
is answered SLOT_EMPTY; an id above 31 or FORCE refuses it BAD_FIELD (R39, R100). A WATCH_DROP, a WINDOW_CLOSE and a
COUNTERS_CLEAR, each of one body byte, are refused BAD_LENGTH at any other length, and BAD_FIELD when bit 7 or 6 of the
tag byte is set (R146). -/
def Obligations.WatchDropFrees : Prop :=
  (∀ (s : State) (tagByte : Byte) (tag : Tag), s.phase = .running → s.isNew tagByte tag → spareClear tagByte = true →
    (∀ (id : WatchId) (x : WatchEntry), forceOf tagByte = false → s.watchOf id = some x →
      ∃ t, exec (.watchDrop tagByte (be1 id.val)) s = .next t ∧
        t.offWire =
          ({ (s.hear.setWatch id none) with
              pollQueue := s.pollQueue.filter (fun y => y ≠ id), bus := t.bus }.setTag tag
            (.done (phaseOf tagByte) (plainReply .watchDrop tagByte .ok))).offWire ∧
        t.hasStored tag (phaseOf tagByte) (plainReply .watchDrop tagByte .ok) ∧
        (∀ turn, s.bus.turn = some turn → turn.holder = .poll id → s.bus.state = .gap →
          t.bus = s.endTurn.bus) ∧
        (∀ turn a, s.bus.turn = some turn → turn.holder = .poll id → s.bus.state = .access a →
          t.bus = { s.bus with turn := some { turn with holder := .dropped } }) ∧
        ((∀ turn, s.bus.turn = some turn → turn.holder ≠ .poll id) → t.bus = s.bus)) ∧
    (∀ id : WatchId, forceOf tagByte = false → s.watchOf id = none →
      ∃ t, exec (.watchDrop tagByte (be1 id.val)) s = .next t ∧
        s.refusedWith t tag tagByte (plainReply .watchDrop tagByte .slotEmpty)) ∧
    (∀ n : Byte, (31 < n.toNat ∨ forceOf tagByte = true) →
      ∃ t, exec (.watchDrop tagByte [n]) s = .next t ∧
        s.refusedWith t tag tagByte (plainReply .watchDrop tagByte .badField))) ∧
  (∀ (s : State) (k : Kind) (tagByte : Byte) (tag : Tag) (body : List Byte), s.phase = .running →
    s.isNew tagByte tag → k = .watchDrop ∨ k = .windowClose ∨ k = .countersClear →
    (body.length ≠ 1 →
      ∃ t, exec (k.command tagByte body) s = .next t ∧
        s.refusedWith t tag tagByte (plainReply k tagByte .badLength)) ∧
    (body.length = 1 → spareClear tagByte = false →
      ∃ t, exec (k.command tagByte body) s = .next t ∧
        s.refusedWith t tag tagByte (plainReply k tagByte .badField)))

/-- POLL_TICK counts every in-use entry down; an entry that reaches 0 is reloaded with its period and enters a poll
request, in increasing id order, or counts an overrun when one is outstanding (R103). -/
def Obligations.PollTickCountsDown : Prop :=
  ∀ s : State, s.phase = .running →
    ∃ t, exec .pollTick s = .next t ∧
      t.offWire = { s with watch := t.watch, pollQueue := t.pollQueue,
                           pollTimer := s.timing.pollTick * 50000 }.offWire ∧
      t.pollQueue = s.pollQueue ++ (List.finRange 32).filter (fun id =>
        match s.watchOf id with
        | none => false
        | some x => decide (x.countdown ≤ 1) && !x.outstanding) ∧
      (∀ id : WatchId, t.watchOf id = (s.watchOf id).map fun x =>
        if x.countdown ≤ 1 then
          { x with countdown := x.config.period, outstanding := true,
                   overruns := if x.outstanding then min (x.overruns + 1) 0xFFFFFFFF else x.overruns }
        else { x with countdown := x.countdown - 1 })

/-! ## Statistics -/

/-- COUNTERS_CLEAR sets the seven running counters of an OPEN window to 0 and keeps its tallies, failed-seen, ring and
everything else; a CLOSED window is answered WINDOW_CLOSED, a window number above 7 or FORCE set BAD_FIELD (R127). -/
def Obligations.CountersClearKeepsTallies : Prop :=
  ∀ (s : State) (tagByte : Byte) (tag : Tag) (n : Byte), s.phase = .running → s.isNew tagByte tag →
    spareClear tagByte = true →
    ((7 < n.toNat ∨ forceOf tagByte = true) →
      ∃ t, exec (.countersClear tagByte [n]) s = .next t ∧
        t.offWire = (s.hear.setTag tag
          (.done (phaseOf tagByte) (plainReply .countersClear tagByte .badField))).offWire ∧
        t.hasStored tag (phaseOf tagByte) (plainReply .countersClear tagByte .badField)) ∧
    (∀ w : WinId, n.toNat = w.val → forceOf tagByte = false → (s.window w).isOpen = true →
      ∃ t, exec (.countersClear tagByte [n]) s = .next t ∧
        t.offWire =
          ((s.hear.setStats w
            { counters := { okAccesses := 0, faults := 0, defers := 0, exhausts := 0, erroredIntervals := 0,
                            severeIntervals := 0, unavailableIntervals := 0 },
              tallies := (s.statsOf w).tallies, failedSeen := (s.statsOf w).failedSeen,
              ring := (s.statsOf w).ring }).setTag tag
            (.done (phaseOf tagByte) (plainReply .countersClear tagByte .ok))).offWire ∧
        t.hasStored tag (phaseOf tagByte) (plainReply .countersClear tagByte .ok)) ∧
    (∀ w : WinId, n.toNat = w.val → forceOf tagByte = false → (s.window w).isOpen = false →
      ∃ t, exec (.countersClear tagByte [n]) s = .next t ∧
        t.offWire = (s.hear.setTag tag
          (.done (phaseOf tagByte) (plainReply .countersClear tagByte .windowClosed))).offWire ∧
        t.hasStored tag (phaseOf tagByte) (plainReply .countersClear tagByte .windowClosed))

/-- The interval end (R119 to R123): the interval number moves on; every OPEN window closes one record into its ring,
counts its flags, and starts the new interval with tallies 0 and failed-seen by its health; a CLOSED window's
statistics stay; the severe notices are entered in increasing window number. -/
def Obligations.IntervalEndClosesRecords : Prop :=
  ∀ s : State, s.phase = .running →
    ∃ t, exec .intervalEnd s = .next t ∧
      t.intervalNumber = (if s.intervalNumber < 0xFFFFFFFF then s.intervalNumber + 1 else 1) ∧
      (∀ w : WinId, (s.window w).isOpen = false → t.statsOf w = s.statsOf w) ∧
      (∀ w : WinId, (s.window w).isOpen = true →
        let x := s.statsOf w
        let failures := x.tallies.faults + x.tallies.exhausts
        let record : Record :=
          { number := t.intervalNumber, tallies := x.tallies, errored := decide (1 ≤ failures),
            severe := decide ((s.window w).fields.severeThreshold ≤ failures), unavailable := x.failedSeen }
        t.statsOf w =
          { counters :=
              { x.counters with
                erroredIntervals :=
                  if record.errored then min (x.counters.erroredIntervals + 1) 0xFFFFFFFF
                  else x.counters.erroredIntervals,
                severeIntervals :=
                  if record.severe then min (x.counters.severeIntervals + 1) 0xFFFFFFFF
                  else x.counters.severeIntervals,
                unavailableIntervals :=
                  if record.unavailable then min (x.counters.unavailableIntervals + 1) 0xFFFFFFFF
                  else x.counters.unavailableIntervals },
            tallies := { ok := 0, faults := 0, defers := 0, exhausts := 0 },
            failedSeen := decide ((s.window w).health.state = .failed),
            ring := (if x.ring.length < 8 then x.ring else x.ring.tail) ++ [record] }) ∧
      t.offWire =
        ({ s with intervalNumber := t.intervalNumber, stats := t.stats,
                  intervalTimer := s.timing.interval * 50000000 }.enterNotices
          ((List.finRange 8).flatMap fun w =>
            let failures := (s.statsOf w).tallies.faults + (s.statsOf w).tallies.exhausts
            if (s.window w).isOpen && (s.window w).fields.notifySevere &&
                decide ((s.window w).fields.severeThreshold ≤ failures) then
              [({ kind := .intervalSevere, subject := w.val,
                  data := be4 t.intervalNumber ++ be4 failures } : NoticeContent)]
            else [])).offWire

/-! ## Session -/

/-- TIMING_SET with every present parameter in range sets the parameters present and keeps the absent ones; with mask 0
it changes nothing; the reply carries all six as they stand after it. A body whose length is not the one its mask gives
is refused BAD_LENGTH; a spare mask bit, a present parameter out of range, FORCE or a spare bit of the tag byte refuses
the whole request BAD_FIELD, and no parameter changes (R146, R151, R170). -/
def Obligations.TimingSetSetsPresent : Prop :=
  ∀ (s : State) (tagByte : Byte) (tag : Tag), s.phase = .running → s.isNew tagByte tag →
    (∀ (mask : Byte) (p : Timing), p.fits → mask.getLsbD 6 = false → mask.getLsbD 7 = false →
      spareClear tagByte = true → forceOf tagByte = false → p.presentOk mask →
      ∃ t, exec (.timingSet tagByte (timingBody mask p)) s = .next t ∧
        (let after := s.timing.updated p mask
         let reply : Reply := { kind := 0xD0#8, tagByte := tagByte, body := 0x00#8 :: after.toBytes }
         t.offWire = ({ s.hear with timing := after }.setTag tag (.done (phaseOf tagByte) reply)).offWire ∧
           t.hasStored tag (phaseOf tagByte) reply)) ∧
    (∃ t, exec (.timingSet tagByte []) s = .next t ∧
      s.refusedWith t tag tagByte (plainReply .timingSet tagByte .badLength)) ∧
    (∀ (mask : Byte) (rest : List Byte), rest.length ≠ timingLength mask →
      ∃ t, exec (.timingSet tagByte (mask :: rest)) s = .next t ∧
        s.refusedWith t tag tagByte (plainReply .timingSet tagByte .badLength)) ∧
    (∀ (mask : Byte) (p : Timing), p.fits →
      (mask.getLsbD 6 = true ∨ mask.getLsbD 7 = true ∨ spareClear tagByte = false ∨ forceOf tagByte = true ∨
        ¬ p.presentOk mask) →
      ∃ t, exec (.timingSet tagByte (timingBody mask p)) s = .next t ∧
        s.refusedWith t tag tagByte (plainReply .timingSet tagByte .badField))

/-- STATUS answers the occupancies and counters as they stand, the link state as it stood before its own arrival, and
changes nothing but to end DEAF (R137, R142, R154). A frame of any KIND that arrives in DEAF, a NOTICE_ACK apart, makes
the unit LIVE with the resend count 0 and a resend due: while the transmitter is SENDING it stays due, and a FREE
transmitter takes the oldest notice, or a reply before it, the resend staying due (R134, R137, R168). -/
def Obligations.StatusAnswers : Prop :=
  (∀ (s : State) (tagByte : Byte), s.phase = .running → spareClear tagByte = true →
    ∃ t, exec (.status tagByte []) s = .next t ∧ t.offWire = s.hear.offWire ∧ t.notices.link = .live ∧
      s.answered t
        { kind := 0xD1#8, tagByte := tagByte,
          body := 0x00#8 ::
            (be1 s.queue.length ++ be1 s.pollQueue.length ++ be1 s.notices.queue.length ++ be2 s.notices.lost ++
              be1 (if s.notices.link = .deaf then 1 else 0) ++ be1 s.bus.state.code ++ be4 s.bus.lendCount ++
              be2 s.rx.badCrc ++ be2 s.rx.oversize ++ be2 s.rx.truncated ++ be2 s.tracker.duplicates ++
              be2 s.tracker.drops) } ∧
      (s.notices.link = .deaf → t.notices.resendCount = 0 ∧ t.notices.resendDue = true)) ∧
  (∀ (s : State) (c : Instr) (tagByte : Byte) (body : List Byte), s.phase = .running → s.notices.link = .deaf →
    ((∃ k : Kind, k ≠ .noticeAck ∧ c = k.command tagByte body) ∨
      ∃ kind : Byte, requestKindCodes.contains kind = false ∧ c = .unknownKind kind tagByte body) →
    ∃ t, exec c s = .next t ∧ t.notices.link = .live ∧ t.notices.resendCount = 0 ∧
      (s.transmit.tx.frame.isSome = true → t.notices.resendDue = true ∧ t.tx = s.transmit.tx) ∧
      (∀ oldest younger, s.transmit.tx.frame = none → s.notices.queue = oldest :: younger →
        (t.notices.resendDue = false ∧
          (t.tx.frame.map fun f => (f.bytes, f.notice)) =
            some (frameBytes 0xF0#8 0x00#8 oldest.toBytes, some oldest.number)) ∨
        (t.notices.resendDue = true ∧ t.tx.frame.map TxFrame.notice = some none)))

/-- IDENTIFY answers the fixed contents whatever the state (R155). -/
def Obligations.IdentifyAnswers : Prop :=
  ∀ (s : State) (tagByte : Byte), s.phase = .running → spareClear tagByte = true →
    ∃ t, exec (.identify tagByte []) s = .next t ∧ t.offWire = s.hear.offWire ∧
      s.answered t
        { kind := 0xD2#8, tagByte := tagByte,
          body := [0x00#8, 0x6E#8, 0x1A#8, 0x42#8, 0x10#8, 0x01#8, 8#8, 6#8, 12#8, 15#8, 32#8, 24#8, 8#8] }

/-- An immediate request of a wrong length is answered BAD_LENGTH, one of the right length with a spare bit of its tag
byte set or a body field out of range BAD_FIELD; none is carried out (R148, R152, R170). That the length is judged
before the spare bits of the tag byte is the model's reading (notes/assumptions/15.md). -/
def Obligations.ImmediateRefused : Prop :=
  ∀ (s : State) (k : Kind) (tagByte : Byte) (body : List Byte) (length : Nat), s.phase = .running →
    k.immediateLength = some length →
    (body.length ≠ length →
      ∃ t, exec (k.command tagByte body) s = .next t ∧ t.offWire = s.hear.offWire ∧
        s.answered t (plainReply k tagByte .badLength)) ∧
    (body.length = length →
      (spareClear tagByte = false ∨
        ((k = .windowQuery ∨ k = .countersRead ∨ k = .historyRead) ∧ 7 < fieldAt body 0 1) ∨
        (k = .historyRead ∧ (fieldAt body 1 1 = 0 ∨ 8 < fieldAt body 1 1)) ∨
        (k = .watchQuery ∧ 31 < fieldAt body 0 1) ∨
        (k = .abort ∧ (fieldAt body 0 1 = 0 ∨ 15 < fieldAt body 0 1))) →
      ∃ t, exec (k.command tagByte body) s = .next t ∧ t.offWire = s.hear.offWire ∧
        s.answered t (plainReply k tagByte .badField))

/-- ABORT (R60 to R63): NOT_FOUND without an entry; a WAITING or DEFERRED entry completes ABORTED with the units it
has done; an ACTIVE entry has its stop requested, or, before the first access of its turn, ends its turn at once. The
reply of an entry that completes is stored, and its tag listed or the reply on TXD (R149, R153). -/
def Obligations.AbortActsOnEntry : Prop :=
  ∀ (s : State) (tagByte : Byte) (target : Tag), s.phase = .running → spareClear tagByte = true →
    (s.entryOf target = none →
      ∃ t, exec (.abort tagByte (be1 target.number)) s = .next t ∧ t.offWire = s.hear.offWire ∧
        s.answered t (plainReply .abort tagByte .notFound)) ∧
    (∀ e, s.entryOf target = some e → e.state ≠ .active →
      ∃ t, exec (.abort tagByte (be1 target.number)) s = .next t ∧
        t.offWire =
          ({ s.hear with queue := s.queue.filter (fun x : LinkEntry => x.tag ≠ target) }.setTag target
            (.done e.phase (e.reply .aborted))).offWire ∧
        t.hasStored target e.phase (e.reply .aborted) ∧
        s.answered t (plainReply .abort tagByte .ok)) ∧
    (∀ e, s.entryOf target = some e → e.state = .active →
      (s.bus.state ≠ .gap ∨ e.accessIndex ≠ 0) →
      ∃ t, exec (.abort tagByte (be1 target.number)) s = .next t ∧
        t.offWire =
          { s.hear with
            queue := s.queue.map fun x : LinkEntry =>
              if x.tag = target then { e with stopRequested := true } else x }.offWire ∧
        s.answered t (plainReply .abort tagByte .ok)) ∧
    (∀ e turn, s.entryOf target = some e → e.state = .active → s.bus.state = .gap → s.bus.turn = some turn →
      turn.holder = .link target → e.accessIndex = 0 →
      ∃ t, exec (.abort tagByte (be1 target.number)) s = .next t ∧
        t.offWire =
          ({ s.hear with queue := s.queue.filter (fun x : LinkEntry => x.tag ≠ target),
                         bus := s.endTurn.bus }.setTag target
            (.done e.phase (e.reply .aborted))).offWire ∧
        t.hasStored target e.phase (e.reply .aborted) ∧
        s.answered t (plainReply .abort tagByte .ok))

/-- RESTART (R66, R156): tags, reply lists, queue and session counters are emptied, a link turn is ended or loses its
holder, everything else is kept, and the answer carries the number of entries discarded. -/
def Obligations.RestartEmptiesSession : Prop :=
  ∀ (s : State) (tagByte : Byte), s.phase = .running → spareClear tagByte = true →
    ∃ t, exec (.restart tagByte []) s = .next t ∧
      t.offWire =
        { s.hear with
          queue := [], bus := t.bus,
          tracker := { s.tracker with tags := Vector.replicate 15 .empty, duplicates := 0 },
          rx := { s.rx with badCrc := 0, oversize := 0, truncated := 0 },
          notices := { s.hear.notices with link := .live, resendCount := 0 } }.offWire ∧
      t.tracker.outgoing = [] ∧ t.tracker.drops = 0 ∧
      (∀ turn tag, s.bus.turn = some turn → turn.holder = .link tag →
        (∀ a, s.bus.state = .access a → t.bus = { s.bus with turn := some { turn with holder := .dropped } }) ∧
        ((∀ a, s.bus.state ≠ .access a) → t.bus = s.endTurn.bus)) ∧
      ((∀ turn tag, s.bus.turn = some turn → turn.holder ≠ .link tag) → t.bus = s.bus) ∧
      (let r : Reply := { kind := 0xE2#8, tagByte := tagByte, body := 0x00#8 :: be1 s.queue.length }
       (s.transmit.tx.frame.isSome = true → t.tx = s.transmit.tx ∧ t.tracker.immediate = [r]) ∧
       (s.transmit.tx.frame = none → t.sending r ∧ t.tracker.immediate = []))

/-! ## Notices -/

/-- The entry of a notice (R132, R133): in a queue with room it takes the next number and the lost count; in a full
one it is lost and counted and consumes no number. -/
def Obligations.NoticeEntryNumbers : Prop :=
  ∀ (s : State) (c : NoticeContent),
    (s.notices.queue.length < 24 →
      (s.enterNotice c).notices =
        { s.notices with
          queue := s.notices.queue ++
            [{ number := s.notices.next, kind := c.kind, subject := c.subject, data := c.data,
               lost := s.notices.lost, sent := false }],
          next := if s.notices.next < 65535 then s.notices.next + 1 else 1, lost := 0 }) ∧
    (24 ≤ s.notices.queue.length →
      (s.enterNotice c).notices = { s.notices with lost := min (s.notices.lost + 1) 65535 })

/-- NOTICE_ACK of a queued number removes that notice and every older one and resets the oldest-notice state; of any
other number it removes nothing and is answered ACK_UNKNOWN (R138). A notice entered at the same time as an
acknowledgement that removes every notice before it becomes the oldest with its sent flag clear (R133, R139), unless a
FREE transmitter has taken it when it joined: its frame is then in transmission, and its sent flag set by the take (R134,
R168, R169). In either case the acknowledgement starts no resend timer; it starts at the end of the first frame (R135,
R139). At an interval end on a LIVE unit a FREE transmitter takes it so, and the answer of the acknowledgement comes after
its frame. That an acknowledgement which waits right behind the entry falls at the same time, and that a take at the
joining sets the flag but has R139's rule of the timer kept, is the model's reading (notes/assumptions/26.md): in the
first clause, too, the frame marked `timerAtEnd` is of such a take. An ACK_UNKNOWN ends DEAF as every frame does
(R137). -/
def Obligations.NoticeAckIsCumulative : Prop :=
  ∀ (s : State) (tagByte : Byte) (n : Nat), s.phase = .running → spareClear tagByte = true → n ≤ 65535 →
    (∀ older x younger, s.transmit.notices.queue = older ++ x :: younger → x.number = n →
      (∀ y ∈ older, y.number ≠ n) →
      ∃ t, exec (.noticeAck tagByte (be2 n)) s = .next t ∧
        t.notices =
          { queue := younger, next := s.notices.next, lost := s.notices.lost, link := .live, resendCount := 0,
            resendTimer :=
              match younger with
              | [] => none
              | oldest :: _ =>
                if oldest.sent = true ∧
                    (s.transmit.tx.frame.map fun f => (f.timerAtEnd, f.notice)) ≠ some (true, some oldest.number) then
                  some (s.timing.resendInterval * 50000)
                else none
            resendDue := false } ∧
        t.offWire = { s with notices := t.notices }.offWire ∧
        s.answered t
          { kind := 0xE0#8, tagByte := tagByte, body := [0x00#8, BitVec.ofNat 8 (older.length + 1)] }) ∧
    ((∀ y ∈ s.notices.queue, y.number ≠ n) →
      ∃ t, exec (.noticeAck tagByte (be2 n)) s = .next t ∧ t.offWire = s.hear.offWire ∧
        s.answered t { kind := 0xE0#8, tagByte := tagByte, body := [0x17#8, 0x00#8] } ∧
        (s.notices.link = .deaf → t.notices.resendCount = 0 ∧ t.notices.resendDue = true)) ∧
    (∀ (t : State) (entry ack : Instr) (rest : List Instr) (older : List Notice) (x : Notice) (entered : List Notice),
      (entry = .intervalEnd ∨ ∃ ready deferred lines, entry = .accessEnd ready deferred lines) →
      (ack = .noticeAck tagByte (be2 n) ∨ ack = .unknownKind 0x60#8 tagByte (be2 n) ∨
        ∃ b stopHigh, ack = .byteArrival b stopHigh ∧ s.rx.line = .looking ∧
          s.rx.held ++ [b] = frameBytes 0x60#8 tagByte (be2 n)) →
      s.pending = ack :: rest → exec entry s = .next t →
      t.notices.queue = older ++ x :: entered → older.length + 1 = s.notices.queue.length → x.number = n →
      (∀ y ∈ older, y.number ≠ n) →
      (∃ u, exec ack t = .next u ∧ u.notices.queue = entered ∧ u.notices.resendTimer = none ∧
        u.notices.resendDue = false) ∧
      (∀ y ∈ entered, (∀ f, t.tx.frame = some f → f.notice ≠ some y.number) → y.sent = false) ∧
      (s.transmit.tx.frame.isSome = true → ∀ y ∈ entered, y.sent = false) ∧
      (∀ y ys, entry = .intervalEnd → s.transmit.tx.frame = none → s.notices.link = .live → entered = y :: ys →
        (t.tx.frame.map fun f => (f.bytes, f.notice)) =
            some (frameBytes 0xF0#8 0x00#8 y.toBytes, some y.number) ∧
          y.sent = true))

/-- RESEND_TIMER_EXPIRY (R135, R137): below the limit a resend becomes due, and a FREE transmitter that has nothing else
to choose takes the oldest notice at once, while one that is SENDING leaves it due (R134, R168); at or above the limit
the unit is DEAF. The timer stops. A stopped timer does not expire. -/
def Obligations.ResendExpiry : Prop :=
  ∀ s : State, s.phase = .running →
    (∀ n, s.notices.resendTimer = some n → s.notices.resendCount < s.timing.resendLimit →
      ∃ t, exec .resendTimerExpiry s = .next t ∧
        t.offWire =
          { s with notices := { s.notices with resendCount := s.notices.resendCount + 1,
                                               resendTimer := none } }.offWire ∧
        t = ({ s.transmit with
                notices := { s.transmit.notices with resendCount := s.notices.resendCount + 1, resendDue := true,
                                                     resendTimer := none } } : State).transmit ∧
        (s.transmit.tx.frame.isSome = true → t.notices.resendDue = true ∧ t.tx = s.transmit.tx) ∧
        (∀ oldest younger, s.transmit.tx.frame = none → s.notices.link = .live →
          s.notices.queue = oldest :: younger →
          (t.tx.frame.map fun f => (f.bytes, f.notice)) =
              some (frameBytes 0xF0#8 0x00#8 oldest.toBytes, some oldest.number) ∧
            t.notices.resendDue = false)) ∧
    (∀ n, s.notices.resendTimer = some n → s.timing.resendLimit ≤ s.notices.resendCount →
      ∃ t, exec .resendTimerExpiry s = .next t ∧
        t.offWire = { s with notices := { s.notices with link := .deaf, resendTimer := none } }.offWire ∧
        t.notices.due = none ∧ t.notices.resendDue = false) ∧
    (s.notices.resendTimer = none →
      ∃ t, exec .resendTimerExpiry s = .next t ∧ t.offWire = s.offWire)

/-! ## Arbiter -/

/-- GRANT on a free bus (R48 to R51): a link bus request wins unless the poll share is used up and a poll is eligible;
the consecutive link grant counter goes up to 8 or returns to 0. A link winner is re-checked (R52) and becomes ACTIVE;
its turn starts with an access of its window, or with a GAP when the release-gap record names another select line
(R33). The access drives its address, its select line, the byte enables of its lane and, for a write, the data of its
unit on the enabled lanes (R11, R12, R24, R76). The candidate is the oldest eligible entry: a bus request that is
WAITING, or DEFERRED with its backoff ended, and that is the oldest item bound to its window (R46, R48, R51). -/
def Obligations.GrantToLink : Prop :=
  (∀ (s : State) (e : LinkEntry) (st : SeqStep), s.phase = .running → s.bus.state = .idle → s.bus.turn = none →
    s.bus.lendPending = false → s.linkCandidate = some e →
    (s.pollCandidate = none ∨ s.linkGrants < s.timing.pollShare) → s.recheck e = none →
    e.request.workAt e.done = some st →
    ∃ t, exec .grant s = .next t ∧
      t.offWire =
        { s with
          linkGrants := min (s.linkGrants + 1) 8, bus := t.bus,
          queue := s.queue.map fun x : LinkEntry =>
            if x.tag = e.tag then { e with state := .active, retryTime := none } else x }.offWire ∧
      (t.bus.turn.map Turn.holder) = some (.link e.tag) ∧
      (∀ g, s.bus.gapRecord = some g → g.select ≠ (s.window e.window).fields.select →
        t.bus.state = .gap ∧ t.bus.gapRecord = some g) ∧
      ((∀ g, s.bus.gapRecord = some g → g.select = (s.window e.window).fields.select) →
        t.bus.gapRecord = none ∧
        ∃ a, t.bus.state = .access a ∧ a.window = e.window ∧
          a.address = (st.pieceAt (s.window e.window).fields.lane e.accessIndex).address ∧
          a.select = (s.window e.window).fields.select ∧
          a.dir = st.dirAt (s.window e.window).fields.lane e.accessIndex ∧
          a.profile = (s.window e.window).fields.profile ∧ a.elapsed = 0 ∧
          (let lane := (s.window e.window).fields.lane
           (lane = .low → a.lowLane = true ∧ a.highLane = false) ∧
           (lane = .high → a.lowLane = false ∧ a.highLane = true) ∧
           (lane = .both → st.unit = .one →
             a.lowLane = decide (st.address % 2 = 0) ∧ a.highLane = decide (st.address % 2 = 1)) ∧
           (lane = .both → st.unit ≠ .one → a.lowLane = true ∧ a.highLane = true) ∧
           (a.dir = .write → a.data = (st.pieceAt lane e.accessIndex).drive (st.writeValue e.held)) ∧
           (∀ v, st.op = .write v →
             a.dir = .write ∧ a.data = (st.pieceAt lane e.accessIndex).drive v)))) ∧
  (∀ (s : State) (e : LinkEntry), (s.queue.map LinkEntry.tag).Nodup →
    (s.linkCandidate = some e ↔
      ∃ older younger, s.queue = older ++ e :: younger ∧ e.grantableBehind older ∧
        ∀ before x after, older = before ++ x :: after → ¬ x.grantableBehind before))

/-- GRANT to a poll request (R49, R51, R106): the oldest eligible poll wins when no link request is eligible or the
poll share is used up, and the counter returns to 0. Its turn starts at the first access of the unit, with nothing read
yet. The candidate is the oldest eligible poll request: its window is not blocked by a DEFERRED bus request, and no
window request bound to it is queued (R47, R49). While the bus is not IDLE, a lend is pending or nothing is eligible,
GRANT changes nothing (R48 to R50). -/
def Obligations.GrantToPoll : Prop :=
  (∀ (s : State) (id : WatchId) (x : WatchEntry) (w : WinId), s.phase = .running → s.bus.state = .idle →
    s.bus.turn = none → s.bus.lendPending = false → s.pollCandidate = some id →
    (s.linkCandidate = none ∨ s.timing.pollShare ≤ s.linkGrants) → s.watchOf id = some x →
    s.decode x.config.address = some w →
    ∃ t, exec .grant s = .next t ∧ t.offWire = { s with linkGrants := 0, bus := t.bus }.offWire ∧
      t.bus.turn = some { holder := .poll id, window := w, pollIndex := 0, pollHeld := 0 } ∧
      ((∀ g, s.bus.gapRecord = some g → g.select = (s.window w).fields.select) →
        s.accessing t { holder := .poll id, window := w, pollIndex := 0, pollHeld := 0 } w
          { op := .read, address := x.config.address, unit := x.config.unit } 0 0) ∧
      (∀ g, s.bus.gapRecord = some g → g.select ≠ (s.window w).fields.select → t.bus.state = .gap)) ∧
  (∀ (s : State) (id : WatchId),
    s.pollCandidate = some id ↔
      ∃ older younger, s.pollQueue = older ++ id :: younger ∧ s.pollGrantable id ∧
        ∀ x ∈ older, ¬ s.pollGrantable x) ∧
  (∀ s : State, s.phase = .running →
    (s.bus.state ≠ .idle ∨ s.bus.lendPending = true ∨ (s.linkCandidate = none ∧ s.pollCandidate = none)) →
    ∃ t, exec .grant s = .next t ∧ t.offWire = s.offWire)

/-- A grant whose re-check fails (R52): the request completes UNMAPPED, ACCESS_DENIED or WINDOW_FAILED by the first
check that fails, no access is made, and the counter is not changed. -/
def Obligations.GrantRecheckFails : Prop :=
  ∀ (s : State) (e : LinkEntry) (status : Status), s.phase = .running → s.bus.state = .idle → s.bus.turn = none →
    s.bus.lendPending = false → s.linkCandidate = some e →
    (s.pollCandidate = none ∨ s.linkGrants < s.timing.pollShare) →
    (let x := s.window e.window
     let inRange := x.isOpen = true ∧ ∀ st ∈ e.request.works,
       s.decode st.address = some e.window ∧ st.address + st.unit.bytes ≤ x.fields.base + 2 ^ x.fields.sizeExp
     let permitted := ∀ st ∈ e.request.works, st.op.permittedBy x.fields.rights = true
     (¬ inRange ∧ status = .unmapped) ∨ (inRange ∧ ¬ permitted ∧ status = .accessDenied) ∨
      (inRange ∧ permitted ∧ e.force = false ∧ x.health.state = .failed ∧ status = .windowFailed)) →
    ∃ t, exec .grant s = .next t ∧
      t.offWire =
        ({ s with queue := s.queue.filter (fun x : LinkEntry => x.tag ≠ e.tag) }.setTag e.tag
          (.done e.phase (e.reply status))).offWire ∧
      t.hasStored e.tag e.phase (e.reply status)

/-! ## Accesses -/

/-- The strobe of FIXED mode lasts exactly S periods, its READY part satisfied (R25). The strobe of READY mode ends at
the first period p with S ≤ p ≤ max(S, L) at whose end READY is high, READY part satisfied; without one it ends at
max(S, L), not satisfied; READY before S is not remembered (R26). The pins in each bus state (R24, R41): in an access
its address, its one select line, its byte enables and, for a write, its data on the enabled lanes, with RDn of a read
or WRn of a write asserted in the strobe periods and in no other; in IDLE, GAP and RETRY_WAIT the last address with
everything withdrawn; in LENT and RECLAIM all released, LGNTn asserted in LENT alone. That the pins take the READY levels
as an input is the model's reading (notes/assumptions/16.md). -/
def Obligations.ReadyEndsStrobe : Prop :=
  (∀ (p : Profile) (ready : List Bool), p.readyMode = .fixed → p.strobeEnd ready = (p.strobe, true)) ∧
  (∀ (p : Profile) (ready : List Bool), p.readyMode = .ready → 1 ≤ p.strobe →
    (∀ q, p.strobe ≤ q → q ≤ max p.strobe p.readyLimit → ready.getD (q - 1) false = true →
      (∀ r, p.strobe ≤ r → r < q → ready.getD (r - 1) false = false) → p.strobeEnd ready = (q, true)) ∧
    ((∀ q, p.strobe ≤ q → q ≤ max p.strobe p.readyLimit → ready.getD (q - 1) false = false) →
      p.strobeEnd ready = (max p.strobe p.readyLimit, false))) ∧
  (∀ (s : State) (a : Access) (ready : List Bool), s.phase = .running → s.bus.state = .access a →
    (s.pins ready).lgnt = false ∧
    ∃ d, (s.pins ready).drive = some d ∧ d.address = a.address ∧ d.select = some a.select ∧ d.lben = a.lowLane ∧
      d.hben = a.highLane ∧
      d.dataLow = (if a.dir = .write ∧ a.lowLane = true then some (a.data.setWidth 8) else none) ∧
      d.dataHigh = (if a.dir = .write ∧ a.highLane = true then some ((a.data >>> 8).setWidth 8) else none) ∧
      (d.rd = true ↔ a.dir = .read ∧ a.profile.setup ≤ a.elapsed ∧
        a.elapsed < a.profile.setup + (a.profile.strobeEnd ready).1) ∧
      (d.wr = true ↔ a.dir = .write ∧ a.profile.setup ≤ a.elapsed ∧
        a.elapsed < a.profile.setup + (a.profile.strobeEnd ready).1)) ∧
  (∀ (s : State) (ready : List Bool), s.phase = .running →
    ((s.bus.state = .idle ∨ s.bus.state = .gap ∨ ∃ n, s.bus.state = .retryWait n) →
      s.pins ready =
        { drive := some { address := s.bus.lastAddress, dataLow := none, dataHigh := none, select := none, rd := false,
                          wr := false, lben := false, hben := false },
          lgnt := false }) ∧
    (s.bus.state = .lent → s.pins ready = { drive := none, lgnt := true }) ∧
    (∀ n, s.bus.state = .reclaim n → s.pins ready = { drive := none, lgnt := false }))

/-- ACCESS_END delivers the outcome of R27 to the statistics of the access's window and of no other (R29, R117), and
to its health machine when it is OK or NO_READY (R85, R86), whoever holds the turn. Entries that are neither the
holder nor taken by a flush stay (R64), the watch list changes only for a poll turn, and the other blocks stay. When
the holder was dropped by RESTART or WATCH_DROP, the turn is over at the end of this access, whatever its outcome: no
entry joins the queue or leaves it but by a flush, and no watch entry and no poll request changes (R23, R29, R38, R39,
R100). -/
def Obligations.AccessOutcomeCounts : Prop :=
  ∀ (s : State) (a : Access) (turn : Turn) (ready : List Bool) (deferred : Bool) (lines : BusData),
    s.phase = .running → s.bus.state = .access a → s.bus.turn = some turn →
    ∃ t, exec (.accessEnd ready deferred lines) s = .next t ∧
      (∀ v : WinId, v ≠ a.window → t.statsOf v = s.statsOf v ∧ t.window v = s.window v) ∧
      (t.window a.window).fields = (s.window a.window).fields ∧
      (t.window a.window).isOpen = (s.window a.window).isOpen ∧
      (deferred = false → (a.profile.strobeEnd ready).2 = true →
        (t.statsOf a.window).tallies.ok = min ((s.statsOf a.window).tallies.ok + 1) 65535 ∧
        (t.statsOf a.window).counters.okAccesses =
          min ((s.statsOf a.window).counters.okAccesses + 1) 0xFFFFFFFF ∧
        (t.statsOf a.window).tallies.faults = (s.statsOf a.window).tallies.faults ∧
        (t.window a.window).health =
          ((s.window a.window).health.take (s.window a.window).fields.declareCount
            (s.window a.window).fields.clearCount .success).1) ∧
      (deferred = false → (a.profile.strobeEnd ready).2 = false →
        (t.statsOf a.window).tallies.faults = min ((s.statsOf a.window).tallies.faults + 1) 65535 ∧
        (t.statsOf a.window).counters.faults = min ((s.statsOf a.window).counters.faults + 1) 0xFFFFFFFF ∧
        (t.statsOf a.window).tallies.ok = (s.statsOf a.window).tallies.ok ∧
        (t.window a.window).health =
          ((s.window a.window).health.take (s.window a.window).fields.declareCount
            (s.window a.window).fields.clearCount .failure).1) ∧
      (deferred = true →
        (t.statsOf a.window).tallies.defers = min ((s.statsOf a.window).tallies.defers + 1) 65535 ∧
        (t.statsOf a.window).counters.defers = min ((s.statsOf a.window).counters.defers + 1) 0xFFFFFFFF ∧
        (t.statsOf a.window).tallies.ok = (s.statsOf a.window).tallies.ok) ∧
      (t.statsOf a.window).ring = (s.statsOf a.window).ring ∧
      ((∀ id, turn.holder ≠ .poll id) → t.watch = s.watch ∧ t.pollQueue = s.pollQueue) ∧
      ((s.queue.map LinkEntry.tag).Nodup → ∀ e ∈ s.queue, turn.holder ≠ .link e.tag →
        (e.request.isBus = false ∨ e.window ≠ a.window ∨ e.force = true ∨ e.state = .active) → e ∈ t.queue) ∧
      (∀ u : Tag, turn.holder ≠ .link u → (∀ e ∈ s.queue, e.tag ≠ u) → t.tagOf u = s.tagOf u) ∧
      (turn.holder = .dropped →
        s.turnOver t a ∧ t.watch = s.watch ∧ t.pollQueue = s.pollQueue ∧ (∀ e ∈ t.queue, e ∈ s.queue) ∧
        ((s.window a.window).health.state = .failed ∨ (t.window a.window).health.state ≠ .failed →
          t.queue = s.queue ∧ t.tracker.tags = s.tracker.tags)) ∧
      t.phase = s.phase ∧ t.lreq = s.lreq ∧ t.rate = s.rate ∧ t.now = s.now ∧ t.pollTimer = s.pollTimer ∧
      t.intervalTimer = s.intervalTimer ∧
      t.linkGrants = s.linkGrants ∧ t.timing = s.timing ∧ t.intervalNumber = s.intervalNumber ∧ t.rx = s.rx ∧
      t.bus.lastAddress = (match t.bus.state with
        | .access b => b.address
        | _ => s.bus.lastAddress)

/-- The last access of the last unit of a READ (R53, R74, R75): the READ completes OK with its data, its tag is DONE,
the turn ends (R23), and the release-gap record is set (R32). The last access of the last unit of a WRITE completes it
OK with its count (R76, R77), and the last access of the last step of a SEQUENCE, a TEST that differs apart, completes
it OK with its step count and the results of its steps (R79, R80, R84); either turn ends. The reply is stored, and
its tag listed or the reply on TXD (R149, R153). -/
def Obligations.ReadCompletes : Prop :=
  (∀ (s : State) (a : Access) (turn : Turn) (tag : Tag) (e : LinkEntry) (address : Nat) (unit : UnitSize)
    (count : Nat) (mode : AddrMode) (ready : List Bool) (lines : BusData),
    s.phase = .running → s.bus.state = .access a → s.bus.turn = some turn → turn.holder = .link tag →
    s.entryOf tag = some e → e.request = .read address unit count mode → e.done + 1 = count →
    e.accessIndex + 1 = (s.window e.window).fields.lane.accesses unit →
    (a.profile.strobeEnd ready).2 = true → a.dir = .read →
    ∃ t, exec (.accessEnd ready false lines) s = .next t ∧ t.entryOf tag = none ∧
      t.hasStored tag e.phase
        { kind := 0x90#8, tagByte := e.tagByte,
          body := 0x00#8 :: be1 count ++
            ((e.results ++
              [{ unit := unit,
                 value := e.held |||
                   ((s.window e.window).fields.lane.piece unit (mode.unitAddress address unit e.done)
                     e.accessIndex).sample lines : UnitValue }]).map UnitValue.toBytes).flatten } ∧
      t.bus.gapRecord =
        (if a.profile.releaseGap = 0 then none
         else some { select := a.select, remaining := a.profile.releaseGap }) ∧
      (s.bus.lendPending = false → t.bus.state = .idle ∧ t.bus.turn = none) ∧
      (s.bus.lendPending = true → a.profile.releaseGap = 0 →
        t.bus.state = .lent ∧ t.bus.lendCount = min (s.bus.lendCount + 1) 0xFFFFFFFF) ∧
      (s.bus.lendPending = true → a.profile.releaseGap ≠ 0 → t.bus.state = .gap ∧ t.bus.turn = none)) ∧
  (∀ (s : State) (a : Access) (turn : Turn) (tag : Tag) (e : LinkEntry) (address : Nat) (unit : UnitSize)
    (mode : AddrMode) (data : List Value) (ready : List Bool) (lines : BusData),
    s.phase = .running → s.bus.state = .access a → s.bus.turn = some turn → turn.holder = .link tag →
    s.entryOf tag = some e → e.request = .write address unit mode data → e.done + 1 = data.length →
    e.accessIndex + 1 = (s.window e.window).fields.lane.accesses unit → (a.profile.strobeEnd ready).2 = true →
    ∃ t, exec (.accessEnd ready false lines) s = .next t ∧ t.entryOf tag = none ∧
      t.hasStored tag e.phase
        { kind := 0x91#8, tagByte := e.tagByte, body := 0x00#8 :: be1 data.length } ∧ s.turnOver t a) ∧
  (∀ (s : State) (a : Access) (turn : Turn) (tag : Tag) (e : LinkEntry) (steps : List SeqStep) (st : SeqStep)
    (ready : List Bool) (lines : BusData),
    s.phase = .running → s.bus.state = .access a → s.bus.turn = some turn → turn.holder = .link tag →
    s.entryOf tag = some e → e.request = .sequence steps → steps[e.done]? = some st →
    e.done + 1 = steps.length → (a.profile.strobeEnd ready).2 = true →
    (let lane := (s.window e.window).fields.lane
     let v := st.heldAfter lane e.accessIndex e.held lines
     e.accessIndex + 1 = st.accesses lane → ¬ st.differs v →
     ∃ t, exec (.accessEnd ready false lines) s = .next t ∧ t.entryOf tag = none ∧
      t.hasStored tag e.phase
        { kind := 0x92#8, tagByte := e.tagByte,
          body := 0x00#8 :: be1 steps.length ++ ((e.results ++ st.result v).map UnitValue.toBytes).flatten } ∧
      s.turnOver t a))

/-- An access of a link request that ends NO_READY completes the request NO_READY with the units or steps it had done
(R53, R74, R76, R82). A TEST whose masked value differs from its reference stops the sequence MISMATCH, with the TEST
counted in steps done and its value last (R81, R82). With a stop requested, a unit or step that is done and is not the
last completes the request ABORTED with the units or steps done (R62, R63). The turn ends. Each reply is stored, and its
tag listed or the reply on TXD (R149, R153). -/
def Obligations.AccessStopsRequest : Prop :=
  (∀ (s : State) (a : Access) (turn : Turn) (tag : Tag) (e : LinkEntry) (ready : List Bool) (lines : BusData),
     s.phase = .running → s.bus.state = .access a → s.bus.turn = some turn → turn.holder = .link tag →
     s.entryOf tag = some e → (a.profile.strobeEnd ready).2 = false →
     ∃ t, exec (.accessEnd ready false lines) s = .next t ∧ t.entryOf tag = none ∧
       t.hasStored tag e.phase (e.reply .noReady) ∧ (s.bus.lendPending = false → t.bus.state = .idle)) ∧
  (∀ (s : State) (a : Access) (turn : Turn) (tag : Tag) (e : LinkEntry) (steps : List SeqStep) (st : SeqStep)
     (mask reference : Value) (ready : List Bool) (lines : BusData),
     s.phase = .running → s.bus.state = .access a → s.bus.turn = some turn → turn.holder = .link tag →
     s.entryOf tag = some e → e.request = .sequence steps → steps[e.done]? = some st → st.op = .test mask reference →
     e.accessIndex + 1 = (s.window e.window).fields.lane.accesses st.unit → (a.profile.strobeEnd ready).2 = true →
     (let v := e.held |||
        ((s.window e.window).fields.lane.piece st.unit st.address e.accessIndex).sample lines
      v &&& mask ≠ reference →
      ∃ t, exec (.accessEnd ready false lines) s = .next t ∧ t.entryOf tag = none ∧
        t.hasStored tag e.phase
          { kind := 0x92#8, tagByte := e.tagByte,
            body := 0x11#8 :: be1 (e.done + 1) ++
              ((e.results ++ [{ unit := st.unit, value := v : UnitValue }]).map UnitValue.toBytes).flatten } ∧
        (s.bus.lendPending = false → t.bus.state = .idle))) ∧
  (∀ (s : State) (a : Access) (turn : Turn) (tag : Tag) (e : LinkEntry) (st : SeqStep) (ready : List Bool)
     (lines : BusData),
     s.phase = .running → s.bus.state = .access a → s.bus.turn = some turn → turn.holder = .link tag →
     s.entryOf tag = some e → e.request.workAt e.done = some st → (a.profile.strobeEnd ready).2 = true →
     e.stopRequested = true → e.done + 1 < e.request.size →
     (let lane := (s.window e.window).fields.lane
      let v := st.heldAfter lane e.accessIndex e.held lines
      e.accessIndex + 1 = st.accesses lane → ¬ st.differs v →
      ∃ t, exec (.accessEnd ready false lines) s = .next t ∧ t.entryOf tag = none ∧
        t.hasStored tag e.phase
          (({ e with done := e.done + 1, results := e.results ++ st.result v } : LinkEntry).reply .aborted) ∧
        s.turnOver t a))

/-- A deferred access of a READ or WRITE (R54, R57): past the retry limit it completes DEFER_EXHAUSTED; else with a
stop requested ABORTED; else with a passed deadline EXPIRED; else it is DEFERRED at the same access with its retry
time, and its window is blocked (R47). Of a SEQUENCE within its retry limit (R34, R56): RETRY_WAIT with the bus held,
the entry ACTIVE at the same access, the window in use. A READ, WRITE or SEQUENCE past its retry limit completes
DEFER_EXHAUSTED with what it has done, its turn ends, and its window counts one deferral and one exhaustion, running
counter and tally, and takes one failure (R56, R57, R82). Each reply is stored, and its tag listed or the reply on TXD
(R149, R153). -/
def Obligations.DeferredAccess : Prop :=
  (∀ (s : State) (a : Access) (turn : Turn) (tag : Tag) (e : LinkEntry) (ready : List Bool) (lines : BusData),
     s.phase = .running → s.bus.state = .access a → s.bus.turn = some turn → turn.holder = .link tag →
     turn.window = e.window → a.window = e.window → s.entryOf tag = some e → e.request.isBus = true →
     e.request.isSequence = false →
     ∃ t, exec (.accessEnd ready true lines) s = .next t ∧
       (let limit := (s.window e.window).fields.retryLimit
        let e' : LinkEntry := { e with retryCount := e.retryCount + 1 }
        (limit < e.retryCount + 1 →
          t.entryOf tag = none ∧ t.hasStored tag e.phase (e'.reply .deferExhausted) ∧
          (t.statsOf e.window).tallies.exhausts = min ((s.statsOf e.window).tallies.exhausts + 1) 65535) ∧
        (e.retryCount + 1 ≤ limit → e.stopRequested = true →
          t.entryOf tag = none ∧ t.hasStored tag e.phase (e'.reply .aborted)) ∧
        (e.retryCount + 1 ≤ limit → e.stopRequested = false → e.deadlinePassed s.now = true →
          t.entryOf tag = none ∧ t.hasStored tag e.phase (e'.reply .expired)) ∧
        (e.retryCount + 1 ≤ limit → e.stopRequested = false → e.deadlinePassed s.now = false →
          t.entryOf tag = some { e' with
            state := .deferred,
            retryTime := some (s.now + (s.window e.window).fields.retryBackoff * 50) } ∧
          t.blocked e.window = true ∧ t.window e.window = s.window e.window)) ∧
       (s.bus.lendPending = false → t.bus.state = .idle ∧ t.bus.turn = none)) ∧
  (∀ (s : State) (a : Access) (turn : Turn) (tag : Tag) (e : LinkEntry) (ready : List Bool) (lines : BusData),
     s.phase = .running → s.bus.state = .access a → s.bus.turn = some turn → turn.holder = .link tag →
     turn.window = e.window → s.entryOf tag = some e → e.request.isSequence = true →
     e.retryCount + 1 ≤ (s.window e.window).fields.retryLimit →
     ∃ t, exec (.accessEnd ready true lines) s = .next t ∧
       t.bus.state = .retryWait ((s.window e.window).fields.retryBackoff * 50) ∧ t.bus.turn = some turn ∧
       t.bus.lendPending = s.bus.lendPending ∧ t.entryOf tag = some { e with retryCount := e.retryCount + 1 } ∧
       t.inUse e.window = true) ∧
  (∀ (s : State) (a : Access) (turn : Turn) (tag : Tag) (e : LinkEntry) (ready : List Bool) (lines : BusData),
     s.phase = .running → s.bus.state = .access a → s.bus.turn = some turn → turn.holder = .link tag →
     turn.window = e.window → a.window = e.window → s.entryOf tag = some e → e.request.isBus = true →
     (s.window e.window).fields.retryLimit < e.retryCount + 1 →
     ∃ t, exec (.accessEnd ready true lines) s = .next t ∧ t.entryOf tag = none ∧
       t.hasStored tag e.phase (e.reply .deferExhausted) ∧ s.turnOver t a ∧
       (t.statsOf e.window).tallies.exhausts = min ((s.statsOf e.window).tallies.exhausts + 1) 65535 ∧
       (t.statsOf e.window).counters.exhausts = min ((s.statsOf e.window).counters.exhausts + 1) 0xFFFFFFFF ∧
       (t.statsOf e.window).tallies.defers = min ((s.statsOf e.window).tallies.defers + 1) 65535 ∧
       (t.window e.window).health =
         ((s.window e.window).health.take (s.window e.window).fields.declareCount
           (s.window e.window).fields.clearCount .failure).1)

/-- A MODIFY step computes w = (v AND and-mask) OR or-mask when its read half ends, and its write half starts with it,
in the same turn (R80). An OK access that is not the last of its unit or step sets the retry count to 0, keeps the value
read so far, and the next access of the unit follows in the same turn; a unit or step that is done and is not the last
adds its result, and the first access of the next one follows (R22, R31, R53, R74, R76, R78). -/
def Obligations.ModifyWritesComputedValue : Prop :=
  (∀ (s : State) (a : Access) (turn : Turn) (tag : Tag) (e : LinkEntry) (steps : List SeqStep) (st : SeqStep)
    (andMask orMask : Value) (ready : List Bool) (lines : BusData),
    s.phase = .running → s.bus.state = .access a → s.bus.turn = some turn → turn.holder = .link tag →
    turn.window = e.window → s.entryOf tag = some e → e.request = .sequence steps → steps[e.done]? = some st →
    st.op = .modify andMask orMask →
    e.accessIndex + 1 = (s.window e.window).fields.lane.accesses st.unit → (a.profile.strobeEnd ready).2 = true →
    ∃ t b, exec (.accessEnd ready false lines) s = .next t ∧ t.bus.state = .access b ∧ t.bus.turn = some turn ∧
      b.dir = .write ∧ b.address = ((s.window e.window).fields.lane.piece st.unit st.address 0).address ∧
      (let v := e.held |||
         ((s.window e.window).fields.lane.piece st.unit st.address e.accessIndex).sample lines
       b.data = ((s.window e.window).fields.lane.piece st.unit st.address 0).drive ((v &&& andMask) ||| orMask) ∧
       (t.entryOf tag).map LinkEntry.held = some v)) ∧
  (∀ (s : State) (a : Access) (turn : Turn) (tag : Tag) (e : LinkEntry) (st : SeqStep) (ready : List Bool)
    (lines : BusData),
    s.phase = .running → s.bus.state = .access a → s.bus.turn = some turn → turn.holder = .link tag →
    turn.window = e.window → s.entryOf tag = some e → e.request.workAt e.done = some st →
    (a.profile.strobeEnd ready).2 = true →
    (let lane := (s.window e.window).fields.lane
     let v := st.heldAfter lane e.accessIndex e.held lines
     (e.accessIndex + 1 < st.accesses lane →
       ∃ t, exec (.accessEnd ready false lines) s = .next t ∧
         t.entryOf tag = some { e with retryCount := 0, accessIndex := e.accessIndex + 1, held := v } ∧
         s.accessing t turn e.window st (e.accessIndex + 1) v) ∧
     (∀ next, e.accessIndex + 1 = st.accesses lane → ¬ st.differs v → e.stopRequested = false →
       e.request.workAt (e.done + 1) = some next →
       ∃ t, exec (.accessEnd ready false lines) s = .next t ∧
         t.entryOf tag = some { e with
           retryCount := 0, accessIndex := 0, held := 0, done := e.done + 1,
           results := e.results ++ st.result v } ∧
         s.accessing t turn e.window next 0 0)))

/-- An OK access of a poll that is not the last of its unit adds the bits it sampled to the value read so far, and the
next access of the unit follows in the same turn; the entry and the poll queue stay (R22, R74, R106). The end of a poll
turn (R106, R107): the entry counts the poll, its request leaves the poll queue, outstanding is cleared, and only an OK
value is evaluated. The turn ends, and the bus is IDLE or lent (R22, R23). The notices entered are the health notice of
the window, and the watch notice of the evaluation by the entry's flags with its data (R87, R90, R110, R112), in either
order (R133; notes/assumptions/8.md). Each counter saturates on its own (R107), also where that takes the sum of R115 past
polls done (notes/assumptions/27.md). -/
def Obligations.PollTurnEnds : Prop :=
  (∀ (s : State) (a : Access) (turn : Turn) (id : WatchId) (x : WatchEntry) (ready : List Bool) (lines : BusData),
    s.phase = .running → s.bus.state = .access a → s.bus.turn = some turn → turn.holder = .poll id →
    s.watchOf id = some x → (a.profile.strobeEnd ready).2 = true →
    turn.pollIndex + 1 < (s.window turn.window).fields.lane.accesses x.config.unit →
    (let v := turn.pollHeld |||
        ((s.window turn.window).fields.lane.piece x.config.unit x.config.address turn.pollIndex).sample lines
     ∃ t, exec (.accessEnd ready false lines) s = .next t ∧ t.watch = s.watch ∧ t.pollQueue = s.pollQueue ∧
       s.accessing t { turn with pollIndex := turn.pollIndex + 1, pollHeld := v } turn.window
         { op := .read, address := x.config.address, unit := x.config.unit } (turn.pollIndex + 1) v)) ∧
  (∀ (s : State) (a : Access) (turn : Turn) (id : WatchId) (x : WatchEntry) (ready : List Bool) (deferred : Bool)
    (lines : BusData),
    s.phase = .running → s.bus.state = .access a → s.bus.turn = some turn → turn.holder = .poll id →
    s.watchOf id = some x →
    (deferred = true ∨ (a.profile.strobeEnd ready).2 = false ∨
      turn.pollIndex + 1 = (s.window turn.window).fields.lane.accesses x.config.unit) →
    ∃ t y, exec (.accessEnd ready deferred lines) s = .next t ∧ t.watchOf id = some y ∧
      (∀ other : WatchId, other ≠ id → t.watchOf other = s.watchOf other) ∧
      t.pollQueue = s.pollQueue.filter (fun z => z ≠ id) ∧ y.outstanding = false ∧ y.config = x.config ∧
      y.countdown = x.countdown ∧ y.overruns = x.overruns ∧ y.pollsDone = min (x.pollsDone + 1) 0xFFFFFFFF ∧
      y.pollDeferrals = (if deferred then min (x.pollDeferrals + 1) 0xFFFFFFFF else x.pollDeferrals) ∧
      y.pollFaults =
        (if !deferred && !(a.profile.strobeEnd ready).2 then min (x.pollFaults + 1) 0xFFFFFFFF
         else x.pollFaults) ∧
      ((deferred = true ∨ (a.profile.strobeEnd ready).2 = false) → y.state = x.state ∧ y.stored = x.stored) ∧
      (deferred = false → (a.profile.strobeEnd ready).2 = true →
        let v := turn.pollHeld |||
          ((s.window turn.window).fields.lane.piece x.config.unit x.config.address turn.pollIndex).sample lines
        y.state = (x.evaluate v).1.state ∧ y.stored = (x.evaluate v).1.stored) ∧
      t.queue.length ≤ s.queue.length ∧ s.turnOver t a ∧
      (let v := turn.pollHeld |||
          ((s.window turn.window).fields.lane.piece x.config.unit x.config.address turn.pollIndex).sample lines
       let health := s.healthNotices t a.window
       let report := if deferred = true ∨ (a.profile.strobeEnd ready).2 = false then .none else (x.evaluate v).2
       let watch : List NoticeContent :=
         match report with
         | .none => []
         | .raised =>
           if x.config.notifyRaise then
             [{ kind := .watchRaised, subject := id.val, data := x.config.unit.toBytes v }]
           else []
         | .cleared =>
           if x.config.notifyClear then
             [{ kind := .watchCleared, subject := id.val, data := x.config.unit.toBytes v }]
           else []
         | .changed old new =>
           if x.config.notifyChange then
             [{ kind := .watchChanged, subject := id.val,
                data := x.config.unit.toBytes old ++ x.config.unit.toBytes new }]
           else []
       t.offWire.notices = (s.enterNotices (health ++ watch)).offWire.notices ∨
         t.offWire.notices = (s.enterNotices (watch ++ health)).offWire.notices))

/-! ## Judgements -/

/-- A FAILED declaration flushes the window (R64, R87): after an access end on W that leaves W FAILED and did not find
it so, no WAITING or DEFERRED bus request without FORCE bound to W is queued, each of them has completed WINDOW_FAILED
with what it had done, its tag listed or its reply on TXD (R149, R153), and failed-seen is set. An access end without a watch report enters WINDOW_FAILED when it
declares W FAILED, WINDOW_RECOVERED when it ends that, each by the flag for health changes, and else nothing (R87,
R90). -/
def Obligations.DeclarationFlushes : Prop :=
  (∀ (s t : State) (a : Access) (turn : Turn) (ready : List Bool) (deferred : Bool) (lines : BusData),
    s.phase = .running → s.bus.state = .access a → s.bus.turn = some turn →
    exec (.accessEnd ready deferred lines) s = .next t → (s.window a.window).health.state ≠ .failed →
    (t.window a.window).health.state = .failed →
    (∀ e ∈ t.queue, e.request.isBus = true → e.window = a.window → e.force = false → e.state = .active) ∧
    (t.statsOf a.window).failedSeen = true ∧
    ((s.queue.map LinkEntry.tag).Nodup →
      ∀ e ∈ s.queue, e.request.isBus = true → e.window = a.window → e.force = false → e.state ≠ .active →
        turn.holder ≠ .link e.tag →
        t.entryOf e.tag = none ∧ t.hasStored e.tag e.phase (e.reply .windowFailed))) ∧
  (∀ (s : State) (a : Access) (turn : Turn) (ready : List Bool) (deferred : Bool) (lines : BusData),
    s.phase = .running → s.bus.state = .access a → s.bus.turn = some turn →
    ((∀ id, turn.holder ≠ .poll id) ∨ deferred = true ∨ (a.profile.strobeEnd ready).2 = false ∨
      ∃ id x, turn.holder = .poll id ∧ s.watchOf id = some x ∧
        turn.pollIndex + 1 < (s.window turn.window).fields.lane.accesses x.config.unit) →
    ∃ t, exec (.accessEnd ready deferred lines) s = .next t ∧
      t.offWire.notices = (s.enterNotices (s.healthNotices t a.window)).offWire.notices)

/-- The set count and the clear count of a watch entry, and the declare count of a window. A condition that holds on S
consecutive good polls raises a MATCH or DIFFER entry at the last of them and not before; one that fails on C
consecutive good polls clears a RAISED one so; a single poll against the run sends the entry back, reporting nothing
(R109, R110). A TRACK entry stores its first masked value unreported, stays STEADY at its stored value V, reports and
stores a new masked value held for S consecutive good polls at the last of them, and SETTLING is left for V and started
anew for a third value (R111, R112). The health machine declares FAILED exactly when the failures since HEALTHY reach
the declare count with no success between them; deferrals do not count (R85, R86). A success returns SUSPECT to HEALTHY
at once and leaves HEALTHY as it is; a FAILED window returns to HEALTHY exactly when the successes since it was declared,
or since its last failure, reach the clear count, and a failure while FAILED sets its success run to 0 and leaves its
failure run (R86, R90). -/
def Obligations.RunsAreCounted : Prop :=
  (∀ (x : WatchEntry) (polls : List Value) (v : Value), x.config.mode ≠ .track →
     (let run := polls.foldl (fun y u => (y.evaluate u).1) x
      (x.state = .quiet → (∀ u ∈ polls ++ [v], x.config.holds u = true) →
        (polls.length + 1 < x.config.setCount →
          run.evaluate v = ({ x with state := .rising (polls.length + 1) }, .none)) ∧
        (polls.length + 1 = x.config.setCount → run.evaluate v = ({ x with state := .raised }, .raised))) ∧
      (x.state = .raised → (∀ u ∈ polls ++ [v], x.config.holds u = false) →
        (polls.length + 1 < x.config.clearCount →
          run.evaluate v = ({ x with state := .falling (polls.length + 1) }, .none)) ∧
        (polls.length + 1 = x.config.clearCount → run.evaluate v = ({ x with state := .quiet }, .cleared)))) ∧
     (x.state = .quiet → x.config.holds v = false → x.evaluate v = (x, .none)) ∧
     (∀ n, x.state = .rising n → x.config.holds v = false → x.evaluate v = ({ x with state := .quiet }, .none)) ∧
     (x.state = .raised → x.config.holds v = true → x.evaluate v = (x, .none)) ∧
     (∀ n, x.state = .falling n → x.config.holds v = true → x.evaluate v = ({ x with state := .raised }, .none))) ∧
  (∀ (x : WatchEntry) (polls : List Value) (u m stored : Value), x.config.mode = .track →
     m = u &&& x.config.mask →
     (x.state = .notSet → x.evaluate u = ({ x with state := .steady, stored := some m }, .none)) ∧
     (x.stored = some stored →
       (x.state = .steady → m = stored → x.evaluate u = (x, .none)) ∧
       (x.state = .steady → m ≠ stored → (∀ w ∈ polls, w &&& x.config.mask = m) →
         (let run := polls.foldl (fun y w => (y.evaluate w).1) x
          (polls.length + 1 < x.config.setCount →
            run.evaluate u = ({ x with state := .settling m (polls.length + 1) }, .none)) ∧
          (polls.length + 1 = x.config.setCount →
            run.evaluate u = ({ x with state := .steady, stored := some m }, .changed stored m)))) ∧
       (∀ candidate n, x.state = .settling candidate n →
         (m = stored → x.evaluate u = ({ x with state := .steady }, .none)) ∧
         (m ≠ stored → m ≠ candidate → x.evaluate u = ({ x with state := .settling m 1 }, .none))))) ∧
  (∀ (d c : Nat) (inputs : List HealthInput), 2 ≤ d → (∀ i ∈ inputs, i ≠ .success) →
     (let h := inputs.foldl (fun h i => (h.take d c i).1) Health.fresh
      (h.state = .failed ↔ d ≤ inputs.count .failure) ∧ (h.state = .failed → h.failureRun = d))) ∧
  (∀ (h : Health) (d c : Nat),
     (let healthy : Health := { state := .healthy, failureRun := 0, successRun := 0 }
      (h.take d c .neutral).1 = h ∧
      (h.state = .healthy → (h.take d c .success).1 = h ∧
        (h.take d c .failure).1 = { state := .suspect, failureRun := 1, successRun := 0 }) ∧
      (h.state = .suspect → (h.take d c .success).1 = healthy ∧
        (h.failureRun + 1 ≠ d → (h.take d c .failure).1 =
          { state := .suspect, failureRun := h.failureRun + 1, successRun := 0 }) ∧
        (h.failureRun + 1 = d → (h.take d c .failure).1 =
          { state := .failed, failureRun := d, successRun := 0 })) ∧
      (h.state = .failed →
        (h.successRun + 1 ≠ c → (h.take d c .success).1 = { h with successRun := h.successRun + 1 }) ∧
        (h.successRun + 1 = c → (h.take d c .success).1 = healthy) ∧
        (h.take d c .failure).1 = { h with successRun := 0 }))) ∧
  (∀ (h : Health) (d c : Nat) (inputs : List HealthInput), 1 ≤ c → h.state = .failed → h.successRun = 0 →
     (∀ i ∈ inputs, i ≠ .failure) →
     (let g := inputs.foldl (fun g i => (g.take d c i).1) h
      (g.state = .healthy ↔ c ≤ inputs.count .success) ∧ (g.state ≠ .healthy →
        g = { h with successRun := inputs.count .success })))

/-! ## Bus events -/

/-- GAP_END (R33): the waiting access starts, or the pending lend is taken. RETRY_WAIT_END (R34): the same access is
made again: the same step and access index. Either access drives its address, its select line, its byte enables and, for
a write, its data on the enabled lanes, with the window's profile taken afresh (R11, R12, R24, R76). -/
def Obligations.WaitingAccessStarts : Prop :=
  (∀ s : State, s.phase = .running → s.bus.state = .gap →
     (∀ turn st i held, s.bus.turn = some turn → s.workOf turn = some (st, i, held) →
       ∃ t, exec .gapEnd s = .next t ∧ t.offWire = { s with bus := t.bus }.offWire ∧
         s.accessing t turn turn.window st i held ∧ t.inUse turn.window = true) ∧
     (s.bus.turn = none → s.bus.lendPending = true →
       ∃ t, exec .gapEnd s = .next t ∧
         t.offWire =
           { s with
             bus := { s.bus with state := .lent, gapRecord := none, lendPending := false,
                                 lendCount := min (s.bus.lendCount + 1) 0xFFFFFFFF } }.offWire)) ∧
  (∀ (s : State) (n : Nat) (turn : Turn) (st : SeqStep) (i : Nat) (held : Value), s.phase = .running →
     s.bus.state = .retryWait n → s.bus.turn = some turn → s.workOf turn = some (st, i, held) →
     ∃ t, exec .retryWaitEnd s = .next t ∧ t.offWire = { s with bus := t.bus }.offWire ∧
       s.accessing t turn turn.window st i held ∧ t.inUse turn.window = true)

/-- LREQN_ASSERTED and LREQN_WITHDRAWN, by the bus state (R35, R36, R37). IDLE with lend-pending set, where the spec
names no effect of a withdrawal, is no state of a run. -/
def Obligations.LreqnActsByState : Prop :=
  (∀ s : State, s.phase = .running →
     ∃ t, exec .lreqnAsserted s = .next t ∧
       t.offWire =
         { s with
           lreq := true,
           bus :=
             match s.bus.state with
             | .idle =>
               if s.bus.gapRecord.isSome then { s.bus with state := .gap, turn := none, lendPending := true }
               else { s.bus with state := .lent, turn := none, lendPending := false,
                                 lendCount := min (s.bus.lendCount + 1) 0xFFFFFFFF }
             | .access _ => { s.bus with lendPending := true }
             | .retryWait _ => { s.bus with lendPending := true }
             | .gap => if s.bus.turn.isSome then { s.bus with lendPending := true } else s.bus
             | .lent => s.bus
             | .reclaim _ => { s.bus with lendPending := true } }.offWire) ∧
  (∀ s : State, s.phase = .running → (s.bus.state = .idle → s.bus.lendPending = false) →
     ∃ t, exec .lreqnWithdrawn s = .next t ∧
       t.offWire =
         { s with
           lreq := false,
           bus :=
             match s.bus.state with
             | .idle => s.bus
             | .access _ => { s.bus with lendPending := false }
             | .retryWait _ => { s.bus with lendPending := false }
             | .gap =>
               if s.bus.turn.isSome then { s.bus with lendPending := false }
               else { s.bus with state := .idle, lendPending := false }
             | .lent => { s.bus with state := .reclaim 4 }
             | .reclaim _ => { s.bus with lendPending := false } }.offWire)

/-- LEND_TAKEN in the GAP before a lend once the record is absent, and RECLAIM_END (R35, R37): the lend is taken and
counted; RECLAIM ends in IDLE, or in the pending lend. -/
def Obligations.LendTakenAndReclaimed : Prop :=
  ∀ s : State, s.phase = .running → s.bus.turn = none → s.bus.gapRecord = none →
    (s.bus.state = .gap ∨ s.bus.state = .idle → s.bus.lendPending = true →
      ∃ t, exec .lendTaken s = .next t ∧ (∀ ready, t.pins ready = { drive := none, lgnt := true }) ∧
        t.offWire =
          { s with
            bus := { s.bus with state := .lent, lendPending := false,
                                lendCount := min (s.bus.lendCount + 1) 0xFFFFFFFF } }.offWire) ∧
    (∀ n, s.bus.state = .reclaim n → s.bus.lendPending = false →
      ∃ t, exec .reclaimEnd s = .next t ∧ t.offWire = { s with bus := { s.bus with state := .idle } }.offWire) ∧
    (∀ n, s.bus.state = .reclaim n → s.bus.lendPending = true →
      ∃ t, exec .reclaimEnd s = .next t ∧
        t.offWire =
          { s with
            bus := { s.bus with state := .lent, lendPending := false,
                                lendCount := min (s.bus.lendCount + 1) 0xFFFFFFFF } }.offWire)

/-- BACKOFF_END and DEADLINE (R55, R58): the backoff's end leaves the entry DEFERRED without a retry time; a passing
deadline completes a WAITING or DEFERRED entry EXPIRED and is kept by an ACTIVE one, as a mark that it has passed: the
mark is the model's reading (notes/assumptions/17.md). -/
def Obligations.TimedEntryEvents : Prop :=
  ∀ (s : State) (tag : Tag) (e : LinkEntry), s.phase = .running → s.entryOf tag = some e →
    (e.state = .deferred →
      ∃ t, exec (.backoffEnd tag) s = .next t ∧
        t.offWire =
          { s with queue := s.queue.map fun x : LinkEntry =>
              if x.tag = tag then { e with retryTime := none } else x }.offWire) ∧
    (∀ d, e.deadline = some d → e.state ≠ .active →
      ∃ t, exec (.deadline tag) s = .next t ∧
        t.offWire =
          ({ s with queue := s.queue.filter (fun x : LinkEntry => x.tag ≠ tag) }.setTag tag
            (.done e.phase (e.reply .expired))).offWire ∧
        t.hasStored tag e.phase (e.reply .expired)) ∧
    (∀ d, e.deadline = some d → e.state = .active →
      ∃ t, exec (.deadline tag) s = .next t ∧
        t.offWire =
          { s with
            queue := s.queue.map fun x : LinkEntry =>
              if x.tag = tag then { e with deadline := some { d with passed := true } } else x }.offWire)

/-! ## Laws that every step keeps -/

/-- R9, R14 and R86: no two OPEN windows overlap, and every OPEN window is sound. R95 and R98: in such states every
in-use watch entry stays inside an OPEN window that permits reads. -/
def Obligations.StepKeepsWindowLaw : Prop :=
  (∀ s t : State, s.WindowLaw → step s = .next t → t.WindowLaw) ∧
  (∀ s t : State, s.WindowLaw → s.WatchLaw → step s = .next t → t.WatchLaw)

/-- R43, R152 and R153: the queue and the tag table agree, and the lists keep their bounds. R22, R46, R47 and R64: in
states of a sound bus, the turn and the queue agree, a window has at most one ACTIVE or DEFERRED entry, and a FAILED
window has no bus request without FORCE. -/
def Obligations.StepKeepsQueueLaw : Prop :=
  (∀ s t : State, s.QueueLaw → step s = .next t → t.QueueLaw) ∧
  (∀ s t : State, s.QueueLaw → s.BusLaw → s.ServiceLaw → step s = .next t → t.ServiceLaw)

/-- R130, R135 and R137: at most 24 notices with consecutive numbers, and DEAF only over a notice. -/
def Obligations.StepKeepsNoticeLaw : Prop :=
  ∀ s t : State, s.NoticeLaw → step s = .next t → t.NoticeLaw

/-- R116 and R121: every ring holds at most 8 records with consecutive interval numbers. R104: the poll queue names
exactly the in-use entries whose outstanding flag is set, once each. -/
def Obligations.StepKeepsRingAndPollLaws : Prop :=
  (∀ s t : State, s.RingLaw → step s = .next t → t.RingLaw) ∧
  (∀ s t : State, s.PollLaw → step s = .next t → t.PollLaw)

/-- R21 to R23 and R32 to R37: the bus state agrees with the turn, lend-pending and the release-gap record. -/
def Obligations.StepKeepsBusLaw : Prop :=
  ∀ s t : State, s.BusLaw → step s = .next t → t.BusLaw

/-- The laws hold right after reset. -/
def Obligations.ResetHasLaws : Prop :=
  State.reset.WindowLaw ∧ State.reset.QueueLaw ∧ State.reset.NoticeLaw ∧ State.reset.RingLaw ∧
    State.reset.PollLaw ∧ State.reset.BusLaw ∧ State.reset.WatchLaw ∧ State.reset.ServiceLaw
end

