-- ==== Sys2Proof/Laws/State.lean ====
section
/-! SUPPORT. One lemma per field and update: what each named update of the state writes, and that it leaves every other
field. True by rfl, so that no later proof unfolds a record update. The second part reads a table after one entry of
it was written. -/

namespace Sys2Proof.Machine

/-! ### setWindow -/

@[simp] theorem State.setWindow_phase (s : State) (w : WinId) (x : Window) : (s.setWindow w x).phase = s.phase := rfl
@[simp] theorem State.setWindow_lreq (s : State) (w : WinId) (x : Window) : (s.setWindow w x).lreq = s.lreq := rfl
@[simp] theorem State.setWindow_rate (s : State) (w : WinId) (x : Window) : (s.setWindow w x).rate = s.rate := rfl
@[simp] theorem State.setWindow_now (s : State) (w : WinId) (x : Window) : (s.setWindow w x).now = s.now := rfl
@[simp] theorem State.setWindow_windows (s : State) (w : WinId) (x : Window) :
    (s.setWindow w x).windows = s.windows.set w x := rfl
@[simp] theorem State.setWindow_bus (s : State) (w : WinId) (x : Window) : (s.setWindow w x).bus = s.bus := rfl
@[simp] theorem State.setWindow_queue (s : State) (w : WinId) (x : Window) : (s.setWindow w x).queue = s.queue := rfl
@[simp] theorem State.setWindow_linkGrants (s : State) (w : WinId) (x : Window) :
    (s.setWindow w x).linkGrants = s.linkGrants := rfl
@[simp] theorem State.setWindow_watch (s : State) (w : WinId) (x : Window) : (s.setWindow w x).watch = s.watch := rfl
@[simp] theorem State.setWindow_pollQueue (s : State) (w : WinId) (x : Window) :
    (s.setWindow w x).pollQueue = s.pollQueue := rfl
@[simp] theorem State.setWindow_pollTimer (s : State) (w : WinId) (x : Window) :
    (s.setWindow w x).pollTimer = s.pollTimer := rfl
@[simp] theorem State.setWindow_stats (s : State) (w : WinId) (x : Window) : (s.setWindow w x).stats = s.stats := rfl
@[simp] theorem State.setWindow_intervalNumber (s : State) (w : WinId) (x : Window) :
    (s.setWindow w x).intervalNumber = s.intervalNumber := rfl
@[simp] theorem State.setWindow_intervalTimer (s : State) (w : WinId) (x : Window) :
    (s.setWindow w x).intervalTimer = s.intervalTimer := rfl
@[simp] theorem State.setWindow_notices (s : State) (w : WinId) (x : Window) :
    (s.setWindow w x).notices = s.notices := rfl
@[simp] theorem State.setWindow_tracker (s : State) (w : WinId) (x : Window) :
    (s.setWindow w x).tracker = s.tracker := rfl
@[simp] theorem State.setWindow_timing (s : State) (w : WinId) (x : Window) :
    (s.setWindow w x).timing = s.timing := rfl
@[simp] theorem State.setWindow_rx (s : State) (w : WinId) (x : Window) : (s.setWindow w x).rx = s.rx := rfl
@[simp] theorem State.setWindow_tx (s : State) (w : WinId) (x : Window) : (s.setWindow w x).tx = s.tx := rfl
@[simp] theorem State.setWindow_freeCount (s : State) (w : WinId) (x : Window) :
    (s.setWindow w x).freeCount = s.freeCount := rfl
@[simp] theorem State.setWindow_pending (s : State) (w : WinId) (x : Window) :
    (s.setWindow w x).pending = s.pending := rfl

/-! ### setStats -/

@[simp] theorem State.setStats_phase (s : State) (w : WinId) (x : WindowStats) :
    (s.setStats w x).phase = s.phase := rfl
@[simp] theorem State.setStats_lreq (s : State) (w : WinId) (x : WindowStats) : (s.setStats w x).lreq = s.lreq := rfl
@[simp] theorem State.setStats_rate (s : State) (w : WinId) (x : WindowStats) : (s.setStats w x).rate = s.rate := rfl
@[simp] theorem State.setStats_now (s : State) (w : WinId) (x : WindowStats) : (s.setStats w x).now = s.now := rfl
@[simp] theorem State.setStats_windows (s : State) (w : WinId) (x : WindowStats) :
    (s.setStats w x).windows = s.windows := rfl
@[simp] theorem State.setStats_bus (s : State) (w : WinId) (x : WindowStats) : (s.setStats w x).bus = s.bus := rfl
@[simp] theorem State.setStats_queue (s : State) (w : WinId) (x : WindowStats) :
    (s.setStats w x).queue = s.queue := rfl
@[simp] theorem State.setStats_linkGrants (s : State) (w : WinId) (x : WindowStats) :
    (s.setStats w x).linkGrants = s.linkGrants := rfl
@[simp] theorem State.setStats_watch (s : State) (w : WinId) (x : WindowStats) :
    (s.setStats w x).watch = s.watch := rfl
@[simp] theorem State.setStats_pollQueue (s : State) (w : WinId) (x : WindowStats) :
    (s.setStats w x).pollQueue = s.pollQueue := rfl
@[simp] theorem State.setStats_pollTimer (s : State) (w : WinId) (x : WindowStats) :
    (s.setStats w x).pollTimer = s.pollTimer := rfl
@[simp] theorem State.setStats_stats (s : State) (w : WinId) (x : WindowStats) :
    (s.setStats w x).stats = s.stats.set w x := rfl
@[simp] theorem State.setStats_intervalNumber (s : State) (w : WinId) (x : WindowStats) :
    (s.setStats w x).intervalNumber = s.intervalNumber := rfl
@[simp] theorem State.setStats_intervalTimer (s : State) (w : WinId) (x : WindowStats) :
    (s.setStats w x).intervalTimer = s.intervalTimer := rfl
@[simp] theorem State.setStats_notices (s : State) (w : WinId) (x : WindowStats) :
    (s.setStats w x).notices = s.notices := rfl
@[simp] theorem State.setStats_tracker (s : State) (w : WinId) (x : WindowStats) :
    (s.setStats w x).tracker = s.tracker := rfl
@[simp] theorem State.setStats_timing (s : State) (w : WinId) (x : WindowStats) :
    (s.setStats w x).timing = s.timing := rfl
@[simp] theorem State.setStats_rx (s : State) (w : WinId) (x : WindowStats) : (s.setStats w x).rx = s.rx := rfl
@[simp] theorem State.setStats_tx (s : State) (w : WinId) (x : WindowStats) : (s.setStats w x).tx = s.tx := rfl
@[simp] theorem State.setStats_freeCount (s : State) (w : WinId) (x : WindowStats) :
    (s.setStats w x).freeCount = s.freeCount := rfl
@[simp] theorem State.setStats_pending (s : State) (w : WinId) (x : WindowStats) :
    (s.setStats w x).pending = s.pending := rfl

/-! ### setWatch -/

@[simp] theorem State.setWatch_phase (s : State) (id : WatchId) (x : Option WatchEntry) :
    (s.setWatch id x).phase = s.phase := rfl
@[simp] theorem State.setWatch_lreq (s : State) (id : WatchId) (x : Option WatchEntry) :
    (s.setWatch id x).lreq = s.lreq := rfl
@[simp] theorem State.setWatch_rate (s : State) (id : WatchId) (x : Option WatchEntry) :
    (s.setWatch id x).rate = s.rate := rfl
@[simp] theorem State.setWatch_now (s : State) (id : WatchId) (x : Option WatchEntry) :
    (s.setWatch id x).now = s.now := rfl
@[simp] theorem State.setWatch_windows (s : State) (id : WatchId) (x : Option WatchEntry) :
    (s.setWatch id x).windows = s.windows := rfl
@[simp] theorem State.setWatch_bus (s : State) (id : WatchId) (x : Option WatchEntry) :
    (s.setWatch id x).bus = s.bus := rfl
@[simp] theorem State.setWatch_queue (s : State) (id : WatchId) (x : Option WatchEntry) :
    (s.setWatch id x).queue = s.queue := rfl
@[simp] theorem State.setWatch_linkGrants (s : State) (id : WatchId) (x : Option WatchEntry) :
    (s.setWatch id x).linkGrants = s.linkGrants := rfl
@[simp] theorem State.setWatch_watch (s : State) (id : WatchId) (x : Option WatchEntry) :
    (s.setWatch id x).watch = s.watch.set id x := rfl
@[simp] theorem State.setWatch_pollQueue (s : State) (id : WatchId) (x : Option WatchEntry) :
    (s.setWatch id x).pollQueue = s.pollQueue := rfl
@[simp] theorem State.setWatch_pollTimer (s : State) (id : WatchId) (x : Option WatchEntry) :
    (s.setWatch id x).pollTimer = s.pollTimer := rfl
@[simp] theorem State.setWatch_stats (s : State) (id : WatchId) (x : Option WatchEntry) :
    (s.setWatch id x).stats = s.stats := rfl
@[simp] theorem State.setWatch_intervalNumber (s : State) (id : WatchId) (x : Option WatchEntry) :
    (s.setWatch id x).intervalNumber = s.intervalNumber := rfl
@[simp] theorem State.setWatch_intervalTimer (s : State) (id : WatchId) (x : Option WatchEntry) :
    (s.setWatch id x).intervalTimer = s.intervalTimer := rfl
@[simp] theorem State.setWatch_notices (s : State) (id : WatchId) (x : Option WatchEntry) :
    (s.setWatch id x).notices = s.notices := rfl
@[simp] theorem State.setWatch_tracker (s : State) (id : WatchId) (x : Option WatchEntry) :
    (s.setWatch id x).tracker = s.tracker := rfl
@[simp] theorem State.setWatch_timing (s : State) (id : WatchId) (x : Option WatchEntry) :
    (s.setWatch id x).timing = s.timing := rfl
@[simp] theorem State.setWatch_rx (s : State) (id : WatchId) (x : Option WatchEntry) :
    (s.setWatch id x).rx = s.rx := rfl
@[simp] theorem State.setWatch_tx (s : State) (id : WatchId) (x : Option WatchEntry) :
    (s.setWatch id x).tx = s.tx := rfl
@[simp] theorem State.setWatch_freeCount (s : State) (id : WatchId) (x : Option WatchEntry) :
    (s.setWatch id x).freeCount = s.freeCount := rfl
@[simp] theorem State.setWatch_pending (s : State) (id : WatchId) (x : Option WatchEntry) :
    (s.setWatch id x).pending = s.pending := rfl

/-! ### setTag -/

@[simp] theorem State.setTag_phase (s : State) (t : Tag) (x : TagEntry) : (s.setTag t x).phase = s.phase := rfl
@[simp] theorem State.setTag_lreq (s : State) (t : Tag) (x : TagEntry) : (s.setTag t x).lreq = s.lreq := rfl
@[simp] theorem State.setTag_rate (s : State) (t : Tag) (x : TagEntry) : (s.setTag t x).rate = s.rate := rfl
@[simp] theorem State.setTag_now (s : State) (t : Tag) (x : TagEntry) : (s.setTag t x).now = s.now := rfl
@[simp] theorem State.setTag_windows (s : State) (t : Tag) (x : TagEntry) : (s.setTag t x).windows = s.windows := rfl
@[simp] theorem State.setTag_bus (s : State) (t : Tag) (x : TagEntry) : (s.setTag t x).bus = s.bus := rfl
@[simp] theorem State.setTag_queue (s : State) (t : Tag) (x : TagEntry) : (s.setTag t x).queue = s.queue := rfl
@[simp] theorem State.setTag_linkGrants (s : State) (t : Tag) (x : TagEntry) :
    (s.setTag t x).linkGrants = s.linkGrants := rfl
@[simp] theorem State.setTag_watch (s : State) (t : Tag) (x : TagEntry) : (s.setTag t x).watch = s.watch := rfl
@[simp] theorem State.setTag_pollQueue (s : State) (t : Tag) (x : TagEntry) :
    (s.setTag t x).pollQueue = s.pollQueue := rfl
@[simp] theorem State.setTag_pollTimer (s : State) (t : Tag) (x : TagEntry) :
    (s.setTag t x).pollTimer = s.pollTimer := rfl
@[simp] theorem State.setTag_stats (s : State) (t : Tag) (x : TagEntry) : (s.setTag t x).stats = s.stats := rfl
@[simp] theorem State.setTag_intervalNumber (s : State) (t : Tag) (x : TagEntry) :
    (s.setTag t x).intervalNumber = s.intervalNumber := rfl
@[simp] theorem State.setTag_intervalTimer (s : State) (t : Tag) (x : TagEntry) :
    (s.setTag t x).intervalTimer = s.intervalTimer := rfl
@[simp] theorem State.setTag_notices (s : State) (t : Tag) (x : TagEntry) : (s.setTag t x).notices = s.notices := rfl
@[simp] theorem State.setTag_tracker (s : State) (t : Tag) (x : TagEntry) :
    (s.setTag t x).tracker = { s.tracker with tags := s.tracker.tags.set t x } := rfl
@[simp] theorem State.setTag_timing (s : State) (t : Tag) (x : TagEntry) : (s.setTag t x).timing = s.timing := rfl
@[simp] theorem State.setTag_rx (s : State) (t : Tag) (x : TagEntry) : (s.setTag t x).rx = s.rx := rfl
@[simp] theorem State.setTag_tx (s : State) (t : Tag) (x : TagEntry) : (s.setTag t x).tx = s.tx := rfl
@[simp] theorem State.setTag_freeCount (s : State) (t : Tag) (x : TagEntry) :
    (s.setTag t x).freeCount = s.freeCount := rfl
@[simp] theorem State.setTag_pending (s : State) (t : Tag) (x : TagEntry) : (s.setTag t x).pending = s.pending := rfl

/-! ### setLendPending -/

@[simp] theorem State.setLendPending_phase (s : State) (b : Bool) : (s.setLendPending b).phase = s.phase := rfl
@[simp] theorem State.setLendPending_lreq (s : State) (b : Bool) : (s.setLendPending b).lreq = s.lreq := rfl
@[simp] theorem State.setLendPending_rate (s : State) (b : Bool) : (s.setLendPending b).rate = s.rate := rfl
@[simp] theorem State.setLendPending_now (s : State) (b : Bool) : (s.setLendPending b).now = s.now := rfl
@[simp] theorem State.setLendPending_windows (s : State) (b : Bool) : (s.setLendPending b).windows = s.windows := rfl
@[simp] theorem State.setLendPending_bus (s : State) (b : Bool) :
    (s.setLendPending b).bus = { s.bus with lendPending := b } := rfl
@[simp] theorem State.setLendPending_queue (s : State) (b : Bool) : (s.setLendPending b).queue = s.queue := rfl
@[simp] theorem State.setLendPending_linkGrants (s : State) (b : Bool) :
    (s.setLendPending b).linkGrants = s.linkGrants := rfl
@[simp] theorem State.setLendPending_watch (s : State) (b : Bool) : (s.setLendPending b).watch = s.watch := rfl
@[simp] theorem State.setLendPending_pollQueue (s : State) (b : Bool) :
    (s.setLendPending b).pollQueue = s.pollQueue := rfl
@[simp] theorem State.setLendPending_pollTimer (s : State) (b : Bool) :
    (s.setLendPending b).pollTimer = s.pollTimer := rfl
@[simp] theorem State.setLendPending_stats (s : State) (b : Bool) : (s.setLendPending b).stats = s.stats := rfl
@[simp] theorem State.setLendPending_intervalNumber (s : State) (b : Bool) :
    (s.setLendPending b).intervalNumber = s.intervalNumber := rfl
@[simp] theorem State.setLendPending_intervalTimer (s : State) (b : Bool) :
    (s.setLendPending b).intervalTimer = s.intervalTimer := rfl
@[simp] theorem State.setLendPending_notices (s : State) (b : Bool) : (s.setLendPending b).notices = s.notices := rfl
@[simp] theorem State.setLendPending_tracker (s : State) (b : Bool) : (s.setLendPending b).tracker = s.tracker := rfl
@[simp] theorem State.setLendPending_timing (s : State) (b : Bool) : (s.setLendPending b).timing = s.timing := rfl
@[simp] theorem State.setLendPending_rx (s : State) (b : Bool) : (s.setLendPending b).rx = s.rx := rfl
@[simp] theorem State.setLendPending_tx (s : State) (b : Bool) : (s.setLendPending b).tx = s.tx := rfl
@[simp] theorem State.setLendPending_freeCount (s : State) (b : Bool) :
    (s.setLendPending b).freeCount = s.freeCount := rfl
@[simp] theorem State.setLendPending_pending (s : State) (b : Bool) : (s.setLendPending b).pending = s.pending := rfl

/-! ### startAccess -/

@[simp] theorem State.startAccess_phase (s : State) (w : WinId) (p : Piece) (dir : Dir) (v : Value) :
    (s.startAccess w p dir v).phase = s.phase := rfl
@[simp] theorem State.startAccess_lreq (s : State) (w : WinId) (p : Piece) (dir : Dir) (v : Value) :
    (s.startAccess w p dir v).lreq = s.lreq := rfl
@[simp] theorem State.startAccess_rate (s : State) (w : WinId) (p : Piece) (dir : Dir) (v : Value) :
    (s.startAccess w p dir v).rate = s.rate := rfl
@[simp] theorem State.startAccess_now (s : State) (w : WinId) (p : Piece) (dir : Dir) (v : Value) :
    (s.startAccess w p dir v).now = s.now := rfl
@[simp] theorem State.startAccess_windows (s : State) (w : WinId) (p : Piece) (dir : Dir) (v : Value) :
    (s.startAccess w p dir v).windows = s.windows := rfl
@[simp] theorem State.startAccess_queue (s : State) (w : WinId) (p : Piece) (dir : Dir) (v : Value) :
    (s.startAccess w p dir v).queue = s.queue := rfl
@[simp] theorem State.startAccess_linkGrants (s : State) (w : WinId) (p : Piece) (dir : Dir) (v : Value) :
    (s.startAccess w p dir v).linkGrants = s.linkGrants := rfl
@[simp] theorem State.startAccess_watch (s : State) (w : WinId) (p : Piece) (dir : Dir) (v : Value) :
    (s.startAccess w p dir v).watch = s.watch := rfl
@[simp] theorem State.startAccess_pollQueue (s : State) (w : WinId) (p : Piece) (dir : Dir) (v : Value) :
    (s.startAccess w p dir v).pollQueue = s.pollQueue := rfl
@[simp] theorem State.startAccess_pollTimer (s : State) (w : WinId) (p : Piece) (dir : Dir) (v : Value) :
    (s.startAccess w p dir v).pollTimer = s.pollTimer := rfl
@[simp] theorem State.startAccess_stats (s : State) (w : WinId) (p : Piece) (dir : Dir) (v : Value) :
    (s.startAccess w p dir v).stats = s.stats := rfl
@[simp] theorem State.startAccess_intervalNumber (s : State) (w : WinId) (p : Piece) (dir : Dir) (v : Value) :
    (s.startAccess w p dir v).intervalNumber = s.intervalNumber := rfl
@[simp] theorem State.startAccess_intervalTimer (s : State) (w : WinId) (p : Piece) (dir : Dir) (v : Value) :
    (s.startAccess w p dir v).intervalTimer = s.intervalTimer := rfl
@[simp] theorem State.startAccess_notices (s : State) (w : WinId) (p : Piece) (dir : Dir) (v : Value) :
    (s.startAccess w p dir v).notices = s.notices := rfl
@[simp] theorem State.startAccess_tracker (s : State) (w : WinId) (p : Piece) (dir : Dir) (v : Value) :
    (s.startAccess w p dir v).tracker = s.tracker := rfl
@[simp] theorem State.startAccess_timing (s : State) (w : WinId) (p : Piece) (dir : Dir) (v : Value) :
    (s.startAccess w p dir v).timing = s.timing := rfl
@[simp] theorem State.startAccess_rx (s : State) (w : WinId) (p : Piece) (dir : Dir) (v : Value) :
    (s.startAccess w p dir v).rx = s.rx := rfl
@[simp] theorem State.startAccess_tx (s : State) (w : WinId) (p : Piece) (dir : Dir) (v : Value) :
    (s.startAccess w p dir v).tx = s.tx := rfl
@[simp] theorem State.startAccess_freeCount (s : State) (w : WinId) (p : Piece) (dir : Dir) (v : Value) :
    (s.startAccess w p dir v).freeCount = s.freeCount := rfl
@[simp] theorem State.startAccess_pending (s : State) (w : WinId) (p : Piece) (dir : Dir) (v : Value) :
    (s.startAccess w p dir v).pending = s.pending := rfl

/-! ### updateEntry -/

@[simp] theorem State.updateEntry_phase (s : State) (e : LinkEntry) : (s.updateEntry e).phase = s.phase := rfl
@[simp] theorem State.updateEntry_lreq (s : State) (e : LinkEntry) : (s.updateEntry e).lreq = s.lreq := rfl
@[simp] theorem State.updateEntry_rate (s : State) (e : LinkEntry) : (s.updateEntry e).rate = s.rate := rfl
@[simp] theorem State.updateEntry_now (s : State) (e : LinkEntry) : (s.updateEntry e).now = s.now := rfl
@[simp] theorem State.updateEntry_windows (s : State) (e : LinkEntry) : (s.updateEntry e).windows = s.windows := rfl
@[simp] theorem State.updateEntry_bus (s : State) (e : LinkEntry) : (s.updateEntry e).bus = s.bus := rfl
@[simp] theorem State.updateEntry_queue (s : State) (e : LinkEntry) :
    (s.updateEntry e).queue = s.queue.map (fun x => if x.tag = e.tag then e else x) := rfl
@[simp] theorem State.updateEntry_linkGrants (s : State) (e : LinkEntry) :
    (s.updateEntry e).linkGrants = s.linkGrants := rfl
@[simp] theorem State.updateEntry_watch (s : State) (e : LinkEntry) : (s.updateEntry e).watch = s.watch := rfl
@[simp] theorem State.updateEntry_pollQueue (s : State) (e : LinkEntry) :
    (s.updateEntry e).pollQueue = s.pollQueue := rfl
@[simp] theorem State.updateEntry_pollTimer (s : State) (e : LinkEntry) :
    (s.updateEntry e).pollTimer = s.pollTimer := rfl
@[simp] theorem State.updateEntry_stats (s : State) (e : LinkEntry) : (s.updateEntry e).stats = s.stats := rfl
@[simp] theorem State.updateEntry_intervalNumber (s : State) (e : LinkEntry) :
    (s.updateEntry e).intervalNumber = s.intervalNumber := rfl
@[simp] theorem State.updateEntry_intervalTimer (s : State) (e : LinkEntry) :
    (s.updateEntry e).intervalTimer = s.intervalTimer := rfl
@[simp] theorem State.updateEntry_notices (s : State) (e : LinkEntry) : (s.updateEntry e).notices = s.notices := rfl
@[simp] theorem State.updateEntry_tracker (s : State) (e : LinkEntry) : (s.updateEntry e).tracker = s.tracker := rfl
@[simp] theorem State.updateEntry_timing (s : State) (e : LinkEntry) : (s.updateEntry e).timing = s.timing := rfl
@[simp] theorem State.updateEntry_rx (s : State) (e : LinkEntry) : (s.updateEntry e).rx = s.rx := rfl
@[simp] theorem State.updateEntry_tx (s : State) (e : LinkEntry) : (s.updateEntry e).tx = s.tx := rfl
@[simp] theorem State.updateEntry_freeCount (s : State) (e : LinkEntry) :
    (s.updateEntry e).freeCount = s.freeCount := rfl
@[simp] theorem State.updateEntry_pending (s : State) (e : LinkEntry) : (s.updateEntry e).pending = s.pending := rfl

/-! ### unqueue -/

@[simp] theorem State.unqueue_phase (s : State) (t : Tag) : (s.unqueue t).phase = s.phase := rfl
@[simp] theorem State.unqueue_lreq (s : State) (t : Tag) : (s.unqueue t).lreq = s.lreq := rfl
@[simp] theorem State.unqueue_rate (s : State) (t : Tag) : (s.unqueue t).rate = s.rate := rfl
@[simp] theorem State.unqueue_now (s : State) (t : Tag) : (s.unqueue t).now = s.now := rfl
@[simp] theorem State.unqueue_windows (s : State) (t : Tag) : (s.unqueue t).windows = s.windows := rfl
@[simp] theorem State.unqueue_bus (s : State) (t : Tag) : (s.unqueue t).bus = s.bus := rfl
@[simp] theorem State.unqueue_queue (s : State) (t : Tag) :
    (s.unqueue t).queue = s.queue.filter (fun x => x.tag ≠ t) := rfl
@[simp] theorem State.unqueue_linkGrants (s : State) (t : Tag) : (s.unqueue t).linkGrants = s.linkGrants := rfl
@[simp] theorem State.unqueue_watch (s : State) (t : Tag) : (s.unqueue t).watch = s.watch := rfl
@[simp] theorem State.unqueue_pollQueue (s : State) (t : Tag) : (s.unqueue t).pollQueue = s.pollQueue := rfl
@[simp] theorem State.unqueue_pollTimer (s : State) (t : Tag) : (s.unqueue t).pollTimer = s.pollTimer := rfl
@[simp] theorem State.unqueue_stats (s : State) (t : Tag) : (s.unqueue t).stats = s.stats := rfl
@[simp] theorem State.unqueue_intervalNumber (s : State) (t : Tag) :
    (s.unqueue t).intervalNumber = s.intervalNumber := rfl
@[simp] theorem State.unqueue_intervalTimer (s : State) (t : Tag) :
    (s.unqueue t).intervalTimer = s.intervalTimer := rfl
@[simp] theorem State.unqueue_notices (s : State) (t : Tag) : (s.unqueue t).notices = s.notices := rfl
@[simp] theorem State.unqueue_tracker (s : State) (t : Tag) : (s.unqueue t).tracker = s.tracker := rfl
@[simp] theorem State.unqueue_timing (s : State) (t : Tag) : (s.unqueue t).timing = s.timing := rfl
@[simp] theorem State.unqueue_rx (s : State) (t : Tag) : (s.unqueue t).rx = s.rx := rfl
@[simp] theorem State.unqueue_tx (s : State) (t : Tag) : (s.unqueue t).tx = s.tx := rfl
@[simp] theorem State.unqueue_freeCount (s : State) (t : Tag) : (s.unqueue t).freeCount = s.freeCount := rfl
@[simp] theorem State.unqueue_pending (s : State) (t : Tag) : (s.unqueue t).pending = s.pending := rfl

/-! ### accept -/

@[simp] theorem State.accept_phase (s : State) (t : Tag) (tagByte : Byte) (w : WinId) (r : LinkRequest) :
    (s.accept t tagByte w r).phase = s.phase := rfl
@[simp] theorem State.accept_lreq (s : State) (t : Tag) (tagByte : Byte) (w : WinId) (r : LinkRequest) :
    (s.accept t tagByte w r).lreq = s.lreq := rfl
@[simp] theorem State.accept_rate (s : State) (t : Tag) (tagByte : Byte) (w : WinId) (r : LinkRequest) :
    (s.accept t tagByte w r).rate = s.rate := rfl
@[simp] theorem State.accept_now (s : State) (t : Tag) (tagByte : Byte) (w : WinId) (r : LinkRequest) :
    (s.accept t tagByte w r).now = s.now := rfl
@[simp] theorem State.accept_windows (s : State) (t : Tag) (tagByte : Byte) (w : WinId) (r : LinkRequest) :
    (s.accept t tagByte w r).windows = s.windows := rfl
@[simp] theorem State.accept_bus (s : State) (t : Tag) (tagByte : Byte) (w : WinId) (r : LinkRequest) :
    (s.accept t tagByte w r).bus = s.bus := rfl
@[simp] theorem State.accept_queue (s : State) (t : Tag) (tagByte : Byte) (w : WinId) (r : LinkRequest) :
    (s.accept t tagByte w r).queue = s.queue ++ [s.newEntry t tagByte w r] := rfl
@[simp] theorem State.accept_linkGrants (s : State) (t : Tag) (tagByte : Byte) (w : WinId) (r : LinkRequest) :
    (s.accept t tagByte w r).linkGrants = s.linkGrants := rfl
@[simp] theorem State.accept_watch (s : State) (t : Tag) (tagByte : Byte) (w : WinId) (r : LinkRequest) :
    (s.accept t tagByte w r).watch = s.watch := rfl
@[simp] theorem State.accept_pollQueue (s : State) (t : Tag) (tagByte : Byte) (w : WinId) (r : LinkRequest) :
    (s.accept t tagByte w r).pollQueue = s.pollQueue := rfl
@[simp] theorem State.accept_pollTimer (s : State) (t : Tag) (tagByte : Byte) (w : WinId) (r : LinkRequest) :
    (s.accept t tagByte w r).pollTimer = s.pollTimer := rfl
@[simp] theorem State.accept_stats (s : State) (t : Tag) (tagByte : Byte) (w : WinId) (r : LinkRequest) :
    (s.accept t tagByte w r).stats = s.stats := rfl
@[simp] theorem State.accept_intervalNumber (s : State) (t : Tag) (tagByte : Byte) (w : WinId) (r : LinkRequest) :
    (s.accept t tagByte w r).intervalNumber = s.intervalNumber := rfl
@[simp] theorem State.accept_intervalTimer (s : State) (t : Tag) (tagByte : Byte) (w : WinId) (r : LinkRequest) :
    (s.accept t tagByte w r).intervalTimer = s.intervalTimer := rfl
@[simp] theorem State.accept_notices (s : State) (t : Tag) (tagByte : Byte) (w : WinId) (r : LinkRequest) :
    (s.accept t tagByte w r).notices = s.notices := rfl
@[simp] theorem State.accept_tracker (s : State) (t : Tag) (tagByte : Byte) (w : WinId) (r : LinkRequest) :
    (s.accept t tagByte w r).tracker =
      { s.tracker with tags := s.tracker.tags.set t (.pending (phaseOf tagByte)) } := rfl
@[simp] theorem State.accept_timing (s : State) (t : Tag) (tagByte : Byte) (w : WinId) (r : LinkRequest) :
    (s.accept t tagByte w r).timing = s.timing := rfl
@[simp] theorem State.accept_rx (s : State) (t : Tag) (tagByte : Byte) (w : WinId) (r : LinkRequest) :
    (s.accept t tagByte w r).rx = s.rx := rfl
@[simp] theorem State.accept_tx (s : State) (t : Tag) (tagByte : Byte) (w : WinId) (r : LinkRequest) :
    (s.accept t tagByte w r).tx = s.tx := rfl
@[simp] theorem State.accept_freeCount (s : State) (t : Tag) (tagByte : Byte) (w : WinId) (r : LinkRequest) :
    (s.accept t tagByte w r).freeCount = s.freeCount := rfl
@[simp] theorem State.accept_pending (s : State) (t : Tag) (tagByte : Byte) (w : WinId) (r : LinkRequest) :
    (s.accept t tagByte w r).pending = s.pending := rfl

/-! ### clearTag -/

@[simp] theorem State.clearTag_phase (s : State) (t : Tag) : (s.clearTag t).phase = s.phase := rfl
@[simp] theorem State.clearTag_lreq (s : State) (t : Tag) : (s.clearTag t).lreq = s.lreq := rfl
@[simp] theorem State.clearTag_rate (s : State) (t : Tag) : (s.clearTag t).rate = s.rate := rfl
@[simp] theorem State.clearTag_now (s : State) (t : Tag) : (s.clearTag t).now = s.now := rfl
@[simp] theorem State.clearTag_windows (s : State) (t : Tag) : (s.clearTag t).windows = s.windows := rfl
@[simp] theorem State.clearTag_bus (s : State) (t : Tag) : (s.clearTag t).bus = s.bus := rfl
@[simp] theorem State.clearTag_queue (s : State) (t : Tag) : (s.clearTag t).queue = s.queue := rfl
@[simp] theorem State.clearTag_linkGrants (s : State) (t : Tag) : (s.clearTag t).linkGrants = s.linkGrants := rfl
@[simp] theorem State.clearTag_watch (s : State) (t : Tag) : (s.clearTag t).watch = s.watch := rfl
@[simp] theorem State.clearTag_pollQueue (s : State) (t : Tag) : (s.clearTag t).pollQueue = s.pollQueue := rfl
@[simp] theorem State.clearTag_pollTimer (s : State) (t : Tag) : (s.clearTag t).pollTimer = s.pollTimer := rfl
@[simp] theorem State.clearTag_stats (s : State) (t : Tag) : (s.clearTag t).stats = s.stats := rfl
@[simp] theorem State.clearTag_intervalNumber (s : State) (t : Tag) :
    (s.clearTag t).intervalNumber = s.intervalNumber := rfl
@[simp] theorem State.clearTag_intervalTimer (s : State) (t : Tag) :
    (s.clearTag t).intervalTimer = s.intervalTimer := rfl
@[simp] theorem State.clearTag_notices (s : State) (t : Tag) : (s.clearTag t).notices = s.notices := rfl
@[simp] theorem State.clearTag_tracker (s : State) (t : Tag) :
    (s.clearTag t).tracker =
      { s.tracker with tags := s.tracker.tags.set t .empty, outgoing := s.tracker.outgoing.filter (fun x => x ≠ t) } := rfl
@[simp] theorem State.clearTag_timing (s : State) (t : Tag) : (s.clearTag t).timing = s.timing := rfl
@[simp] theorem State.clearTag_rx (s : State) (t : Tag) : (s.clearTag t).rx = s.rx := rfl
@[simp] theorem State.clearTag_tx (s : State) (t : Tag) : (s.clearTag t).tx = s.tx := rfl
@[simp] theorem State.clearTag_freeCount (s : State) (t : Tag) : (s.clearTag t).freeCount = s.freeCount := rfl
@[simp] theorem State.clearTag_pending (s : State) (t : Tag) : (s.clearTag t).pending = s.pending := rfl

/-! ### countDuplicate -/

@[simp] theorem State.countDuplicate_phase (s : State) : (s.countDuplicate).phase = s.phase := rfl
@[simp] theorem State.countDuplicate_lreq (s : State) : (s.countDuplicate).lreq = s.lreq := rfl
@[simp] theorem State.countDuplicate_rate (s : State) : (s.countDuplicate).rate = s.rate := rfl
@[simp] theorem State.countDuplicate_now (s : State) : (s.countDuplicate).now = s.now := rfl
@[simp] theorem State.countDuplicate_windows (s : State) : (s.countDuplicate).windows = s.windows := rfl
@[simp] theorem State.countDuplicate_bus (s : State) : (s.countDuplicate).bus = s.bus := rfl
@[simp] theorem State.countDuplicate_queue (s : State) : (s.countDuplicate).queue = s.queue := rfl
@[simp] theorem State.countDuplicate_linkGrants (s : State) : (s.countDuplicate).linkGrants = s.linkGrants := rfl
@[simp] theorem State.countDuplicate_watch (s : State) : (s.countDuplicate).watch = s.watch := rfl
@[simp] theorem State.countDuplicate_pollQueue (s : State) : (s.countDuplicate).pollQueue = s.pollQueue := rfl
@[simp] theorem State.countDuplicate_pollTimer (s : State) : (s.countDuplicate).pollTimer = s.pollTimer := rfl
@[simp] theorem State.countDuplicate_stats (s : State) : (s.countDuplicate).stats = s.stats := rfl
@[simp] theorem State.countDuplicate_intervalNumber (s : State) :
    (s.countDuplicate).intervalNumber = s.intervalNumber := rfl
@[simp] theorem State.countDuplicate_intervalTimer (s : State) :
    (s.countDuplicate).intervalTimer = s.intervalTimer := rfl
@[simp] theorem State.countDuplicate_notices (s : State) : (s.countDuplicate).notices = s.notices := rfl
@[simp] theorem State.countDuplicate_tracker (s : State) :
    (s.countDuplicate).tracker = { s.tracker with duplicates := satInc Config.max16 s.tracker.duplicates } := rfl
@[simp] theorem State.countDuplicate_timing (s : State) : (s.countDuplicate).timing = s.timing := rfl
@[simp] theorem State.countDuplicate_rx (s : State) : (s.countDuplicate).rx = s.rx := rfl
@[simp] theorem State.countDuplicate_tx (s : State) : (s.countDuplicate).tx = s.tx := rfl
@[simp] theorem State.countDuplicate_freeCount (s : State) : (s.countDuplicate).freeCount = s.freeCount := rfl
@[simp] theorem State.countDuplicate_pending (s : State) : (s.countDuplicate).pending = s.pending := rfl

/-! ### countOutcome -/

@[simp] theorem State.countOutcome_phase (s : State) (w : WinId) (o : Outcome) :
    (s.countOutcome w o).phase = s.phase := rfl
@[simp] theorem State.countOutcome_lreq (s : State) (w : WinId) (o : Outcome) :
    (s.countOutcome w o).lreq = s.lreq := rfl
@[simp] theorem State.countOutcome_rate (s : State) (w : WinId) (o : Outcome) :
    (s.countOutcome w o).rate = s.rate := rfl
@[simp] theorem State.countOutcome_now (s : State) (w : WinId) (o : Outcome) : (s.countOutcome w o).now = s.now := rfl
@[simp] theorem State.countOutcome_windows (s : State) (w : WinId) (o : Outcome) :
    (s.countOutcome w o).windows = s.windows := rfl
@[simp] theorem State.countOutcome_bus (s : State) (w : WinId) (o : Outcome) : (s.countOutcome w o).bus = s.bus := rfl
@[simp] theorem State.countOutcome_queue (s : State) (w : WinId) (o : Outcome) :
    (s.countOutcome w o).queue = s.queue := rfl
@[simp] theorem State.countOutcome_linkGrants (s : State) (w : WinId) (o : Outcome) :
    (s.countOutcome w o).linkGrants = s.linkGrants := rfl
@[simp] theorem State.countOutcome_watch (s : State) (w : WinId) (o : Outcome) :
    (s.countOutcome w o).watch = s.watch := rfl
@[simp] theorem State.countOutcome_pollQueue (s : State) (w : WinId) (o : Outcome) :
    (s.countOutcome w o).pollQueue = s.pollQueue := rfl
@[simp] theorem State.countOutcome_pollTimer (s : State) (w : WinId) (o : Outcome) :
    (s.countOutcome w o).pollTimer = s.pollTimer := rfl
@[simp] theorem State.countOutcome_stats (s : State) (w : WinId) (o : Outcome) :
    (s.countOutcome w o).stats = s.stats.set w ((s.statsOf w).countOutcome o) := rfl
@[simp] theorem State.countOutcome_intervalNumber (s : State) (w : WinId) (o : Outcome) :
    (s.countOutcome w o).intervalNumber = s.intervalNumber := rfl
@[simp] theorem State.countOutcome_intervalTimer (s : State) (w : WinId) (o : Outcome) :
    (s.countOutcome w o).intervalTimer = s.intervalTimer := rfl
@[simp] theorem State.countOutcome_notices (s : State) (w : WinId) (o : Outcome) :
    (s.countOutcome w o).notices = s.notices := rfl
@[simp] theorem State.countOutcome_tracker (s : State) (w : WinId) (o : Outcome) :
    (s.countOutcome w o).tracker = s.tracker := rfl
@[simp] theorem State.countOutcome_timing (s : State) (w : WinId) (o : Outcome) :
    (s.countOutcome w o).timing = s.timing := rfl
@[simp] theorem State.countOutcome_rx (s : State) (w : WinId) (o : Outcome) : (s.countOutcome w o).rx = s.rx := rfl
@[simp] theorem State.countOutcome_tx (s : State) (w : WinId) (o : Outcome) : (s.countOutcome w o).tx = s.tx := rfl
@[simp] theorem State.countOutcome_freeCount (s : State) (w : WinId) (o : Outcome) :
    (s.countOutcome w o).freeCount = s.freeCount := rfl
@[simp] theorem State.countOutcome_pending (s : State) (w : WinId) (o : Outcome) :
    (s.countOutcome w o).pending = s.pending := rfl

/-! ### countExhaustion -/

@[simp] theorem State.countExhaustion_phase (s : State) (w : WinId) : (s.countExhaustion w).phase = s.phase := rfl
@[simp] theorem State.countExhaustion_lreq (s : State) (w : WinId) : (s.countExhaustion w).lreq = s.lreq := rfl
@[simp] theorem State.countExhaustion_rate (s : State) (w : WinId) : (s.countExhaustion w).rate = s.rate := rfl
@[simp] theorem State.countExhaustion_now (s : State) (w : WinId) : (s.countExhaustion w).now = s.now := rfl
@[simp] theorem State.countExhaustion_windows (s : State) (w : WinId) :
    (s.countExhaustion w).windows = s.windows := rfl
@[simp] theorem State.countExhaustion_bus (s : State) (w : WinId) : (s.countExhaustion w).bus = s.bus := rfl
@[simp] theorem State.countExhaustion_queue (s : State) (w : WinId) : (s.countExhaustion w).queue = s.queue := rfl
@[simp] theorem State.countExhaustion_linkGrants (s : State) (w : WinId) :
    (s.countExhaustion w).linkGrants = s.linkGrants := rfl
@[simp] theorem State.countExhaustion_watch (s : State) (w : WinId) : (s.countExhaustion w).watch = s.watch := rfl
@[simp] theorem State.countExhaustion_pollQueue (s : State) (w : WinId) :
    (s.countExhaustion w).pollQueue = s.pollQueue := rfl
@[simp] theorem State.countExhaustion_pollTimer (s : State) (w : WinId) :
    (s.countExhaustion w).pollTimer = s.pollTimer := rfl
@[simp] theorem State.countExhaustion_stats (s : State) (w : WinId) :
    (s.countExhaustion w).stats = s.stats.set w (s.statsOf w).countExhaustion := rfl
@[simp] theorem State.countExhaustion_intervalNumber (s : State) (w : WinId) :
    (s.countExhaustion w).intervalNumber = s.intervalNumber := rfl
@[simp] theorem State.countExhaustion_intervalTimer (s : State) (w : WinId) :
    (s.countExhaustion w).intervalTimer = s.intervalTimer := rfl
@[simp] theorem State.countExhaustion_notices (s : State) (w : WinId) :
    (s.countExhaustion w).notices = s.notices := rfl
@[simp] theorem State.countExhaustion_tracker (s : State) (w : WinId) :
    (s.countExhaustion w).tracker = s.tracker := rfl
@[simp] theorem State.countExhaustion_timing (s : State) (w : WinId) : (s.countExhaustion w).timing = s.timing := rfl
@[simp] theorem State.countExhaustion_rx (s : State) (w : WinId) : (s.countExhaustion w).rx = s.rx := rfl
@[simp] theorem State.countExhaustion_tx (s : State) (w : WinId) : (s.countExhaustion w).tx = s.tx := rfl
@[simp] theorem State.countExhaustion_freeCount (s : State) (w : WinId) :
    (s.countExhaustion w).freeCount = s.freeCount := rfl
@[simp] theorem State.countExhaustion_pending (s : State) (w : WinId) :
    (s.countExhaustion w).pending = s.pending := rfl

/-! ### enterNotice -/

@[simp] theorem State.enterNotice_phase (s : State) (c : NoticeContent) : (s.enterNotice c).phase = s.phase := rfl
@[simp] theorem State.enterNotice_lreq (s : State) (c : NoticeContent) : (s.enterNotice c).lreq = s.lreq := rfl
@[simp] theorem State.enterNotice_rate (s : State) (c : NoticeContent) : (s.enterNotice c).rate = s.rate := rfl
@[simp] theorem State.enterNotice_now (s : State) (c : NoticeContent) : (s.enterNotice c).now = s.now := rfl
@[simp] theorem State.enterNotice_windows (s : State) (c : NoticeContent) :
    (s.enterNotice c).windows = s.windows := rfl
@[simp] theorem State.enterNotice_bus (s : State) (c : NoticeContent) : (s.enterNotice c).bus = s.bus := rfl
@[simp] theorem State.enterNotice_queue (s : State) (c : NoticeContent) : (s.enterNotice c).queue = s.queue := rfl
@[simp] theorem State.enterNotice_linkGrants (s : State) (c : NoticeContent) :
    (s.enterNotice c).linkGrants = s.linkGrants := rfl
@[simp] theorem State.enterNotice_watch (s : State) (c : NoticeContent) : (s.enterNotice c).watch = s.watch := rfl
@[simp] theorem State.enterNotice_pollQueue (s : State) (c : NoticeContent) :
    (s.enterNotice c).pollQueue = s.pollQueue := rfl
@[simp] theorem State.enterNotice_pollTimer (s : State) (c : NoticeContent) :
    (s.enterNotice c).pollTimer = s.pollTimer := rfl
@[simp] theorem State.enterNotice_stats (s : State) (c : NoticeContent) : (s.enterNotice c).stats = s.stats := rfl
@[simp] theorem State.enterNotice_intervalNumber (s : State) (c : NoticeContent) :
    (s.enterNotice c).intervalNumber = s.intervalNumber := rfl
@[simp] theorem State.enterNotice_intervalTimer (s : State) (c : NoticeContent) :
    (s.enterNotice c).intervalTimer = s.intervalTimer := rfl
@[simp] theorem State.enterNotice_notices (s : State) (c : NoticeContent) :
    (s.enterNotice c).notices = s.notices.enter c := rfl
@[simp] theorem State.enterNotice_tracker (s : State) (c : NoticeContent) :
    (s.enterNotice c).tracker = s.tracker := rfl
@[simp] theorem State.enterNotice_timing (s : State) (c : NoticeContent) : (s.enterNotice c).timing = s.timing := rfl
@[simp] theorem State.enterNotice_rx (s : State) (c : NoticeContent) : (s.enterNotice c).rx = s.rx := rfl
@[simp] theorem State.enterNotice_tx (s : State) (c : NoticeContent) : (s.enterNotice c).tx = s.tx := rfl
@[simp] theorem State.enterNotice_freeCount (s : State) (c : NoticeContent) :
    (s.enterNotice c).freeCount = s.freeCount := rfl
@[simp] theorem State.enterNotice_pending (s : State) (c : NoticeContent) :
    (s.enterNotice c).pending = s.pending := rfl

/-! ### enterNotices -/

@[simp] theorem State.enterNotices_phase (s : State) (cs : List NoticeContent) :
    (s.enterNotices cs).phase = s.phase := rfl
@[simp] theorem State.enterNotices_lreq (s : State) (cs : List NoticeContent) :
    (s.enterNotices cs).lreq = s.lreq := rfl
@[simp] theorem State.enterNotices_rate (s : State) (cs : List NoticeContent) :
    (s.enterNotices cs).rate = s.rate := rfl
@[simp] theorem State.enterNotices_now (s : State) (cs : List NoticeContent) : (s.enterNotices cs).now = s.now := rfl
@[simp] theorem State.enterNotices_windows (s : State) (cs : List NoticeContent) :
    (s.enterNotices cs).windows = s.windows := rfl
@[simp] theorem State.enterNotices_bus (s : State) (cs : List NoticeContent) : (s.enterNotices cs).bus = s.bus := rfl
@[simp] theorem State.enterNotices_queue (s : State) (cs : List NoticeContent) :
    (s.enterNotices cs).queue = s.queue := rfl
@[simp] theorem State.enterNotices_linkGrants (s : State) (cs : List NoticeContent) :
    (s.enterNotices cs).linkGrants = s.linkGrants := rfl
@[simp] theorem State.enterNotices_watch (s : State) (cs : List NoticeContent) :
    (s.enterNotices cs).watch = s.watch := rfl
@[simp] theorem State.enterNotices_pollQueue (s : State) (cs : List NoticeContent) :
    (s.enterNotices cs).pollQueue = s.pollQueue := rfl
@[simp] theorem State.enterNotices_pollTimer (s : State) (cs : List NoticeContent) :
    (s.enterNotices cs).pollTimer = s.pollTimer := rfl
@[simp] theorem State.enterNotices_stats (s : State) (cs : List NoticeContent) :
    (s.enterNotices cs).stats = s.stats := rfl
@[simp] theorem State.enterNotices_intervalNumber (s : State) (cs : List NoticeContent) :
    (s.enterNotices cs).intervalNumber = s.intervalNumber := rfl
@[simp] theorem State.enterNotices_intervalTimer (s : State) (cs : List NoticeContent) :
    (s.enterNotices cs).intervalTimer = s.intervalTimer := rfl
@[simp] theorem State.enterNotices_notices (s : State) (cs : List NoticeContent) :
    (s.enterNotices cs).notices = cs.foldl NoticeUnit.enter s.notices := rfl
@[simp] theorem State.enterNotices_tracker (s : State) (cs : List NoticeContent) :
    (s.enterNotices cs).tracker = s.tracker := rfl
@[simp] theorem State.enterNotices_timing (s : State) (cs : List NoticeContent) :
    (s.enterNotices cs).timing = s.timing := rfl
@[simp] theorem State.enterNotices_rx (s : State) (cs : List NoticeContent) : (s.enterNotices cs).rx = s.rx := rfl
@[simp] theorem State.enterNotices_tx (s : State) (cs : List NoticeContent) : (s.enterNotices cs).tx = s.tx := rfl
@[simp] theorem State.enterNotices_freeCount (s : State) (cs : List NoticeContent) :
    (s.enterNotices cs).freeCount = s.freeCount := rfl
@[simp] theorem State.enterNotices_pending (s : State) (cs : List NoticeContent) :
    (s.enterNotices cs).pending = s.pending := rfl

/-! ### send -/

@[simp] theorem State.send_phase (s : State) (bytes : List Byte) (notice : Option Nat) (served : Served) :
    (s.send bytes notice served).phase = s.phase := rfl
@[simp] theorem State.send_lreq (s : State) (bytes : List Byte) (notice : Option Nat) (served : Served) :
    (s.send bytes notice served).lreq = s.lreq := rfl
@[simp] theorem State.send_rate (s : State) (bytes : List Byte) (notice : Option Nat) (served : Served) :
    (s.send bytes notice served).rate = s.rate := rfl
@[simp] theorem State.send_now (s : State) (bytes : List Byte) (notice : Option Nat) (served : Served) :
    (s.send bytes notice served).now = s.now := rfl
@[simp] theorem State.send_windows (s : State) (bytes : List Byte) (notice : Option Nat) (served : Served) :
    (s.send bytes notice served).windows = s.windows := rfl
@[simp] theorem State.send_bus (s : State) (bytes : List Byte) (notice : Option Nat) (served : Served) :
    (s.send bytes notice served).bus = s.bus := rfl
@[simp] theorem State.send_queue (s : State) (bytes : List Byte) (notice : Option Nat) (served : Served) :
    (s.send bytes notice served).queue = s.queue := rfl
@[simp] theorem State.send_linkGrants (s : State) (bytes : List Byte) (notice : Option Nat) (served : Served) :
    (s.send bytes notice served).linkGrants = s.linkGrants := rfl
@[simp] theorem State.send_watch (s : State) (bytes : List Byte) (notice : Option Nat) (served : Served) :
    (s.send bytes notice served).watch = s.watch := rfl
@[simp] theorem State.send_pollQueue (s : State) (bytes : List Byte) (notice : Option Nat) (served : Served) :
    (s.send bytes notice served).pollQueue = s.pollQueue := rfl
@[simp] theorem State.send_pollTimer (s : State) (bytes : List Byte) (notice : Option Nat) (served : Served) :
    (s.send bytes notice served).pollTimer = s.pollTimer := rfl
@[simp] theorem State.send_stats (s : State) (bytes : List Byte) (notice : Option Nat) (served : Served) :
    (s.send bytes notice served).stats = s.stats := rfl
@[simp] theorem State.send_intervalNumber (s : State) (bytes : List Byte) (notice : Option Nat) (served : Served) :
    (s.send bytes notice served).intervalNumber = s.intervalNumber := rfl
@[simp] theorem State.send_intervalTimer (s : State) (bytes : List Byte) (notice : Option Nat) (served : Served) :
    (s.send bytes notice served).intervalTimer = s.intervalTimer := rfl
@[simp] theorem State.send_notices (s : State) (bytes : List Byte) (notice : Option Nat) (served : Served) :
    (s.send bytes notice served).notices = s.notices := rfl
@[simp] theorem State.send_tracker (s : State) (bytes : List Byte) (notice : Option Nat) (served : Served) :
    (s.send bytes notice served).tracker = s.tracker := rfl
@[simp] theorem State.send_timing (s : State) (bytes : List Byte) (notice : Option Nat) (served : Served) :
    (s.send bytes notice served).timing = s.timing := rfl
@[simp] theorem State.send_rx (s : State) (bytes : List Byte) (notice : Option Nat) (served : Served) :
    (s.send bytes notice served).rx = s.rx := rfl
@[simp] theorem State.send_freeCount (s : State) (bytes : List Byte) (notice : Option Nat) (served : Served) :
    (s.send bytes notice served).freeCount = s.freeCount := rfl
@[simp] theorem State.send_pending (s : State) (bytes : List Byte) (notice : Option Nat) (served : Served) :
    (s.send bytes notice served).pending = s.pending := rfl

/-! ### pushImmediate -/

@[simp] theorem State.pushImmediate_phase (s : State) (r : Reply) : (s.pushImmediate r).phase = s.phase := rfl
@[simp] theorem State.pushImmediate_lreq (s : State) (r : Reply) : (s.pushImmediate r).lreq = s.lreq := rfl
@[simp] theorem State.pushImmediate_rate (s : State) (r : Reply) : (s.pushImmediate r).rate = s.rate := rfl
@[simp] theorem State.pushImmediate_now (s : State) (r : Reply) : (s.pushImmediate r).now = s.now := rfl
@[simp] theorem State.pushImmediate_windows (s : State) (r : Reply) : (s.pushImmediate r).windows = s.windows := rfl
@[simp] theorem State.pushImmediate_bus (s : State) (r : Reply) : (s.pushImmediate r).bus = s.bus := rfl
@[simp] theorem State.pushImmediate_queue (s : State) (r : Reply) : (s.pushImmediate r).queue = s.queue := rfl
@[simp] theorem State.pushImmediate_linkGrants (s : State) (r : Reply) :
    (s.pushImmediate r).linkGrants = s.linkGrants := rfl
@[simp] theorem State.pushImmediate_watch (s : State) (r : Reply) : (s.pushImmediate r).watch = s.watch := rfl
@[simp] theorem State.pushImmediate_pollQueue (s : State) (r : Reply) :
    (s.pushImmediate r).pollQueue = s.pollQueue := rfl
@[simp] theorem State.pushImmediate_pollTimer (s : State) (r : Reply) :
    (s.pushImmediate r).pollTimer = s.pollTimer := rfl
@[simp] theorem State.pushImmediate_stats (s : State) (r : Reply) : (s.pushImmediate r).stats = s.stats := rfl
@[simp] theorem State.pushImmediate_intervalNumber (s : State) (r : Reply) :
    (s.pushImmediate r).intervalNumber = s.intervalNumber := rfl
@[simp] theorem State.pushImmediate_intervalTimer (s : State) (r : Reply) :
    (s.pushImmediate r).intervalTimer = s.intervalTimer := rfl
@[simp] theorem State.pushImmediate_notices (s : State) (r : Reply) : (s.pushImmediate r).notices = s.notices := rfl
@[simp] theorem State.pushImmediate_timing (s : State) (r : Reply) : (s.pushImmediate r).timing = s.timing := rfl
@[simp] theorem State.pushImmediate_rx (s : State) (r : Reply) : (s.pushImmediate r).rx = s.rx := rfl
@[simp] theorem State.pushImmediate_tx (s : State) (r : Reply) : (s.pushImmediate r).tx = s.tx := rfl
@[simp] theorem State.pushImmediate_freeCount (s : State) (r : Reply) :
    (s.pushImmediate r).freeCount = s.freeCount := rfl
@[simp] theorem State.pushImmediate_pending (s : State) (r : Reply) : (s.pushImmediate r).pending = s.pending := rfl

/-! ### answer -/

@[simp] theorem State.answer_phase (s : State) (kind tagByte : Byte) (status : Status) (contents : List Byte) :
    (s.answer kind tagByte status contents).phase = s.phase := rfl
@[simp] theorem State.answer_lreq (s : State) (kind tagByte : Byte) (status : Status) (contents : List Byte) :
    (s.answer kind tagByte status contents).lreq = s.lreq := rfl
@[simp] theorem State.answer_rate (s : State) (kind tagByte : Byte) (status : Status) (contents : List Byte) :
    (s.answer kind tagByte status contents).rate = s.rate := rfl
@[simp] theorem State.answer_now (s : State) (kind tagByte : Byte) (status : Status) (contents : List Byte) :
    (s.answer kind tagByte status contents).now = s.now := rfl
@[simp] theorem State.answer_windows (s : State) (kind tagByte : Byte) (status : Status) (contents : List Byte) :
    (s.answer kind tagByte status contents).windows = s.windows := rfl
@[simp] theorem State.answer_bus (s : State) (kind tagByte : Byte) (status : Status) (contents : List Byte) :
    (s.answer kind tagByte status contents).bus = s.bus := rfl
@[simp] theorem State.answer_queue (s : State) (kind tagByte : Byte) (status : Status) (contents : List Byte) :
    (s.answer kind tagByte status contents).queue = s.queue := rfl
@[simp] theorem State.answer_linkGrants (s : State) (kind tagByte : Byte) (status : Status) (contents : List Byte) :
    (s.answer kind tagByte status contents).linkGrants = s.linkGrants := rfl
@[simp] theorem State.answer_watch (s : State) (kind tagByte : Byte) (status : Status) (contents : List Byte) :
    (s.answer kind tagByte status contents).watch = s.watch := rfl
@[simp] theorem State.answer_pollQueue (s : State) (kind tagByte : Byte) (status : Status) (contents : List Byte) :
    (s.answer kind tagByte status contents).pollQueue = s.pollQueue := rfl
@[simp] theorem State.answer_pollTimer (s : State) (kind tagByte : Byte) (status : Status) (contents : List Byte) :
    (s.answer kind tagByte status contents).pollTimer = s.pollTimer := rfl
@[simp] theorem State.answer_stats (s : State) (kind tagByte : Byte) (status : Status) (contents : List Byte) :
    (s.answer kind tagByte status contents).stats = s.stats := rfl
@[simp] theorem State.answer_intervalNumber (s : State) (kind tagByte : Byte) (status : Status) (contents : List Byte) :
    (s.answer kind tagByte status contents).intervalNumber =
      s.intervalNumber := rfl
@[simp] theorem State.answer_intervalTimer (s : State) (kind tagByte : Byte) (status : Status) (contents : List Byte) :
    (s.answer kind tagByte status contents).intervalTimer =
      s.intervalTimer := rfl
@[simp] theorem State.answer_notices (s : State) (kind tagByte : Byte) (status : Status) (contents : List Byte) :
    (s.answer kind tagByte status contents).notices = s.notices := rfl
@[simp] theorem State.answer_timing (s : State) (kind tagByte : Byte) (status : Status) (contents : List Byte) :
    (s.answer kind tagByte status contents).timing = s.timing := rfl
@[simp] theorem State.answer_rx (s : State) (kind tagByte : Byte) (status : Status) (contents : List Byte) :
    (s.answer kind tagByte status contents).rx = s.rx := rfl
@[simp] theorem State.answer_tx (s : State) (kind tagByte : Byte) (status : Status) (contents : List Byte) :
    (s.answer kind tagByte status contents).tx = s.tx := rfl
@[simp] theorem State.answer_freeCount (s : State) (kind tagByte : Byte) (status : Status) (contents : List Byte) :
    (s.answer kind tagByte status contents).freeCount = s.freeCount := rfl
@[simp] theorem State.answer_pending (s : State) (kind tagByte : Byte) (status : Status) (contents : List Byte) :
    (s.answer kind tagByte status contents).pending = s.pending := rfl

/-! ### hear -/

@[simp] theorem State.hear_phase (s : State) : (s.hear).phase = s.phase := rfl
@[simp] theorem State.hear_lreq (s : State) : (s.hear).lreq = s.lreq := rfl
@[simp] theorem State.hear_rate (s : State) : (s.hear).rate = s.rate := rfl
@[simp] theorem State.hear_now (s : State) : (s.hear).now = s.now := rfl
@[simp] theorem State.hear_windows (s : State) : (s.hear).windows = s.windows := rfl
@[simp] theorem State.hear_bus (s : State) : (s.hear).bus = s.bus := rfl
@[simp] theorem State.hear_queue (s : State) : (s.hear).queue = s.queue := rfl
@[simp] theorem State.hear_linkGrants (s : State) : (s.hear).linkGrants = s.linkGrants := rfl
@[simp] theorem State.hear_watch (s : State) : (s.hear).watch = s.watch := rfl
@[simp] theorem State.hear_pollQueue (s : State) : (s.hear).pollQueue = s.pollQueue := rfl
@[simp] theorem State.hear_pollTimer (s : State) : (s.hear).pollTimer = s.pollTimer := rfl
@[simp] theorem State.hear_stats (s : State) : (s.hear).stats = s.stats := rfl
@[simp] theorem State.hear_intervalNumber (s : State) : (s.hear).intervalNumber = s.intervalNumber := rfl
@[simp] theorem State.hear_intervalTimer (s : State) : (s.hear).intervalTimer = s.intervalTimer := rfl
@[simp] theorem State.hear_notices (s : State) : (s.hear).notices = s.notices.deafExit := rfl
@[simp] theorem State.hear_tracker (s : State) : (s.hear).tracker = s.tracker := rfl
@[simp] theorem State.hear_timing (s : State) : (s.hear).timing = s.timing := rfl
@[simp] theorem State.hear_rx (s : State) : (s.hear).rx = s.rx := rfl
@[simp] theorem State.hear_tx (s : State) : (s.hear).tx = s.tx := rfl
@[simp] theorem State.hear_freeCount (s : State) : (s.hear).freeCount = s.freeCount := rfl
@[simp] theorem State.hear_pending (s : State) : (s.hear).pending = s.pending := rfl

/-! ### resendExpiry -/

@[simp] theorem State.resendExpiry_phase (s : State) : (s.resendExpiry).phase = s.phase := rfl
@[simp] theorem State.resendExpiry_lreq (s : State) : (s.resendExpiry).lreq = s.lreq := rfl
@[simp] theorem State.resendExpiry_rate (s : State) : (s.resendExpiry).rate = s.rate := rfl
@[simp] theorem State.resendExpiry_now (s : State) : (s.resendExpiry).now = s.now := rfl
@[simp] theorem State.resendExpiry_windows (s : State) : (s.resendExpiry).windows = s.windows := rfl
@[simp] theorem State.resendExpiry_bus (s : State) : (s.resendExpiry).bus = s.bus := rfl
@[simp] theorem State.resendExpiry_queue (s : State) : (s.resendExpiry).queue = s.queue := rfl
@[simp] theorem State.resendExpiry_linkGrants (s : State) : (s.resendExpiry).linkGrants = s.linkGrants := rfl
@[simp] theorem State.resendExpiry_watch (s : State) : (s.resendExpiry).watch = s.watch := rfl
@[simp] theorem State.resendExpiry_pollQueue (s : State) : (s.resendExpiry).pollQueue = s.pollQueue := rfl
@[simp] theorem State.resendExpiry_pollTimer (s : State) : (s.resendExpiry).pollTimer = s.pollTimer := rfl
@[simp] theorem State.resendExpiry_stats (s : State) : (s.resendExpiry).stats = s.stats := rfl
@[simp] theorem State.resendExpiry_intervalNumber (s : State) :
    (s.resendExpiry).intervalNumber = s.intervalNumber := rfl
@[simp] theorem State.resendExpiry_intervalTimer (s : State) : (s.resendExpiry).intervalTimer = s.intervalTimer := rfl
@[simp] theorem State.resendExpiry_notices (s : State) :
    (s.resendExpiry).notices = s.notices.expire s.timing.resendLimit := rfl
@[simp] theorem State.resendExpiry_tracker (s : State) : (s.resendExpiry).tracker = s.tracker := rfl
@[simp] theorem State.resendExpiry_timing (s : State) : (s.resendExpiry).timing = s.timing := rfl
@[simp] theorem State.resendExpiry_rx (s : State) : (s.resendExpiry).rx = s.rx := rfl
@[simp] theorem State.resendExpiry_tx (s : State) : (s.resendExpiry).tx = s.tx := rfl
@[simp] theorem State.resendExpiry_freeCount (s : State) : (s.resendExpiry).freeCount = s.freeCount := rfl
@[simp] theorem State.resendExpiry_pending (s : State) : (s.resendExpiry).pending = s.pending := rfl

/-! ### pollTick -/

@[simp] theorem State.pollTick_phase (s : State) : (s.pollTick).phase = s.phase := rfl
@[simp] theorem State.pollTick_lreq (s : State) : (s.pollTick).lreq = s.lreq := rfl
@[simp] theorem State.pollTick_rate (s : State) : (s.pollTick).rate = s.rate := rfl
@[simp] theorem State.pollTick_now (s : State) : (s.pollTick).now = s.now := rfl
@[simp] theorem State.pollTick_windows (s : State) : (s.pollTick).windows = s.windows := rfl
@[simp] theorem State.pollTick_bus (s : State) : (s.pollTick).bus = s.bus := rfl
@[simp] theorem State.pollTick_queue (s : State) : (s.pollTick).queue = s.queue := rfl
@[simp] theorem State.pollTick_linkGrants (s : State) : (s.pollTick).linkGrants = s.linkGrants := rfl
@[simp] theorem State.pollTick_watch (s : State) :
    (s.pollTick).watch = s.watch.map (fun x => x.map WatchEntry.tick) := rfl
@[simp] theorem State.pollTick_pollQueue (s : State) : (s.pollTick).pollQueue = s.pollQueue ++ s.newPolls := rfl
@[simp] theorem State.pollTick_pollTimer (s : State) :
    (s.pollTick).pollTimer = s.timing.pollTick * Config.perMilli := rfl
@[simp] theorem State.pollTick_stats (s : State) : (s.pollTick).stats = s.stats := rfl
@[simp] theorem State.pollTick_intervalNumber (s : State) : (s.pollTick).intervalNumber = s.intervalNumber := rfl
@[simp] theorem State.pollTick_intervalTimer (s : State) : (s.pollTick).intervalTimer = s.intervalTimer := rfl
@[simp] theorem State.pollTick_notices (s : State) : (s.pollTick).notices = s.notices := rfl
@[simp] theorem State.pollTick_tracker (s : State) : (s.pollTick).tracker = s.tracker := rfl
@[simp] theorem State.pollTick_timing (s : State) : (s.pollTick).timing = s.timing := rfl
@[simp] theorem State.pollTick_rx (s : State) : (s.pollTick).rx = s.rx := rfl
@[simp] theorem State.pollTick_tx (s : State) : (s.pollTick).tx = s.tx := rfl
@[simp] theorem State.pollTick_freeCount (s : State) : (s.pollTick).freeCount = s.freeCount := rfl
@[simp] theorem State.pollTick_pending (s : State) : (s.pollTick).pending = s.pending := rfl

/-! ### holdBytes -/

@[simp] theorem State.holdBytes_phase (s : State) (held : List Byte) : (s.holdBytes held).phase = s.phase := rfl
@[simp] theorem State.holdBytes_lreq (s : State) (held : List Byte) : (s.holdBytes held).lreq = s.lreq := rfl
@[simp] theorem State.holdBytes_rate (s : State) (held : List Byte) : (s.holdBytes held).rate = s.rate := rfl
@[simp] theorem State.holdBytes_now (s : State) (held : List Byte) : (s.holdBytes held).now = s.now := rfl
@[simp] theorem State.holdBytes_windows (s : State) (held : List Byte) : (s.holdBytes held).windows = s.windows := rfl
@[simp] theorem State.holdBytes_bus (s : State) (held : List Byte) : (s.holdBytes held).bus = s.bus := rfl
@[simp] theorem State.holdBytes_queue (s : State) (held : List Byte) : (s.holdBytes held).queue = s.queue := rfl
@[simp] theorem State.holdBytes_linkGrants (s : State) (held : List Byte) :
    (s.holdBytes held).linkGrants = s.linkGrants := rfl
@[simp] theorem State.holdBytes_watch (s : State) (held : List Byte) : (s.holdBytes held).watch = s.watch := rfl
@[simp] theorem State.holdBytes_pollQueue (s : State) (held : List Byte) :
    (s.holdBytes held).pollQueue = s.pollQueue := rfl
@[simp] theorem State.holdBytes_pollTimer (s : State) (held : List Byte) :
    (s.holdBytes held).pollTimer = s.pollTimer := rfl
@[simp] theorem State.holdBytes_stats (s : State) (held : List Byte) : (s.holdBytes held).stats = s.stats := rfl
@[simp] theorem State.holdBytes_intervalNumber (s : State) (held : List Byte) :
    (s.holdBytes held).intervalNumber = s.intervalNumber := rfl
@[simp] theorem State.holdBytes_intervalTimer (s : State) (held : List Byte) :
    (s.holdBytes held).intervalTimer = s.intervalTimer := rfl
@[simp] theorem State.holdBytes_notices (s : State) (held : List Byte) : (s.holdBytes held).notices = s.notices := rfl
@[simp] theorem State.holdBytes_tracker (s : State) (held : List Byte) : (s.holdBytes held).tracker = s.tracker := rfl
@[simp] theorem State.holdBytes_timing (s : State) (held : List Byte) : (s.holdBytes held).timing = s.timing := rfl
@[simp] theorem State.holdBytes_rx (s : State) (held : List Byte) :
    (s.holdBytes held).rx = { s.rx with held := held } := rfl
@[simp] theorem State.holdBytes_tx (s : State) (held : List Byte) : (s.holdBytes held).tx = s.tx := rfl
@[simp] theorem State.holdBytes_freeCount (s : State) (held : List Byte) :
    (s.holdBytes held).freeCount = s.freeCount := rfl
@[simp] theorem State.holdBytes_pending (s : State) (held : List Byte) : (s.holdBytes held).pending = s.pending := rfl

/-! ### countOversize -/

@[simp] theorem State.countOversize_phase (s : State) : (s.countOversize).phase = s.phase := rfl
@[simp] theorem State.countOversize_lreq (s : State) : (s.countOversize).lreq = s.lreq := rfl
@[simp] theorem State.countOversize_rate (s : State) : (s.countOversize).rate = s.rate := rfl
@[simp] theorem State.countOversize_now (s : State) : (s.countOversize).now = s.now := rfl
@[simp] theorem State.countOversize_windows (s : State) : (s.countOversize).windows = s.windows := rfl
@[simp] theorem State.countOversize_bus (s : State) : (s.countOversize).bus = s.bus := rfl
@[simp] theorem State.countOversize_queue (s : State) : (s.countOversize).queue = s.queue := rfl
@[simp] theorem State.countOversize_linkGrants (s : State) : (s.countOversize).linkGrants = s.linkGrants := rfl
@[simp] theorem State.countOversize_watch (s : State) : (s.countOversize).watch = s.watch := rfl
@[simp] theorem State.countOversize_pollQueue (s : State) : (s.countOversize).pollQueue = s.pollQueue := rfl
@[simp] theorem State.countOversize_pollTimer (s : State) : (s.countOversize).pollTimer = s.pollTimer := rfl
@[simp] theorem State.countOversize_stats (s : State) : (s.countOversize).stats = s.stats := rfl
@[simp] theorem State.countOversize_intervalNumber (s : State) :
    (s.countOversize).intervalNumber = s.intervalNumber := rfl
@[simp] theorem State.countOversize_intervalTimer (s : State) :
    (s.countOversize).intervalTimer = s.intervalTimer := rfl
@[simp] theorem State.countOversize_notices (s : State) : (s.countOversize).notices = s.notices := rfl
@[simp] theorem State.countOversize_tracker (s : State) : (s.countOversize).tracker = s.tracker := rfl
@[simp] theorem State.countOversize_timing (s : State) : (s.countOversize).timing = s.timing := rfl
@[simp] theorem State.countOversize_rx (s : State) :
    (s.countOversize).rx = { s.rx with oversize := satInc Config.max16 s.rx.oversize } := rfl
@[simp] theorem State.countOversize_tx (s : State) : (s.countOversize).tx = s.tx := rfl
@[simp] theorem State.countOversize_freeCount (s : State) : (s.countOversize).freeCount = s.freeCount := rfl
@[simp] theorem State.countOversize_pending (s : State) : (s.countOversize).pending = s.pending := rfl

/-! ### countBadCrc -/

@[simp] theorem State.countBadCrc_phase (s : State) : (s.countBadCrc).phase = s.phase := rfl
@[simp] theorem State.countBadCrc_lreq (s : State) : (s.countBadCrc).lreq = s.lreq := rfl
@[simp] theorem State.countBadCrc_rate (s : State) : (s.countBadCrc).rate = s.rate := rfl
@[simp] theorem State.countBadCrc_now (s : State) : (s.countBadCrc).now = s.now := rfl
@[simp] theorem State.countBadCrc_windows (s : State) : (s.countBadCrc).windows = s.windows := rfl
@[simp] theorem State.countBadCrc_bus (s : State) : (s.countBadCrc).bus = s.bus := rfl
@[simp] theorem State.countBadCrc_queue (s : State) : (s.countBadCrc).queue = s.queue := rfl
@[simp] theorem State.countBadCrc_linkGrants (s : State) : (s.countBadCrc).linkGrants = s.linkGrants := rfl
@[simp] theorem State.countBadCrc_watch (s : State) : (s.countBadCrc).watch = s.watch := rfl
@[simp] theorem State.countBadCrc_pollQueue (s : State) : (s.countBadCrc).pollQueue = s.pollQueue := rfl
@[simp] theorem State.countBadCrc_pollTimer (s : State) : (s.countBadCrc).pollTimer = s.pollTimer := rfl
@[simp] theorem State.countBadCrc_stats (s : State) : (s.countBadCrc).stats = s.stats := rfl
@[simp] theorem State.countBadCrc_intervalNumber (s : State) :
    (s.countBadCrc).intervalNumber = s.intervalNumber := rfl
@[simp] theorem State.countBadCrc_intervalTimer (s : State) : (s.countBadCrc).intervalTimer = s.intervalTimer := rfl
@[simp] theorem State.countBadCrc_notices (s : State) : (s.countBadCrc).notices = s.notices := rfl
@[simp] theorem State.countBadCrc_tracker (s : State) : (s.countBadCrc).tracker = s.tracker := rfl
@[simp] theorem State.countBadCrc_timing (s : State) : (s.countBadCrc).timing = s.timing := rfl
@[simp] theorem State.countBadCrc_rx (s : State) :
    (s.countBadCrc).rx = { s.rx with badCrc := satInc Config.max16 s.rx.badCrc } := rfl
@[simp] theorem State.countBadCrc_tx (s : State) : (s.countBadCrc).tx = s.tx := rfl
@[simp] theorem State.countBadCrc_freeCount (s : State) : (s.countBadCrc).freeCount = s.freeCount := rfl
@[simp] theorem State.countBadCrc_pending (s : State) : (s.countBadCrc).pending = s.pending := rfl

/-! ### restartGapTimer -/

@[simp] theorem State.restartGapTimer_phase (s : State) : (s.restartGapTimer).phase = s.phase := rfl
@[simp] theorem State.restartGapTimer_lreq (s : State) : (s.restartGapTimer).lreq = s.lreq := rfl
@[simp] theorem State.restartGapTimer_rate (s : State) : (s.restartGapTimer).rate = s.rate := rfl
@[simp] theorem State.restartGapTimer_now (s : State) : (s.restartGapTimer).now = s.now := rfl
@[simp] theorem State.restartGapTimer_windows (s : State) : (s.restartGapTimer).windows = s.windows := rfl
@[simp] theorem State.restartGapTimer_bus (s : State) : (s.restartGapTimer).bus = s.bus := rfl
@[simp] theorem State.restartGapTimer_queue (s : State) : (s.restartGapTimer).queue = s.queue := rfl
@[simp] theorem State.restartGapTimer_linkGrants (s : State) : (s.restartGapTimer).linkGrants = s.linkGrants := rfl
@[simp] theorem State.restartGapTimer_watch (s : State) : (s.restartGapTimer).watch = s.watch := rfl
@[simp] theorem State.restartGapTimer_pollQueue (s : State) : (s.restartGapTimer).pollQueue = s.pollQueue := rfl
@[simp] theorem State.restartGapTimer_pollTimer (s : State) : (s.restartGapTimer).pollTimer = s.pollTimer := rfl
@[simp] theorem State.restartGapTimer_stats (s : State) : (s.restartGapTimer).stats = s.stats := rfl
@[simp] theorem State.restartGapTimer_intervalNumber (s : State) :
    (s.restartGapTimer).intervalNumber = s.intervalNumber := rfl
@[simp] theorem State.restartGapTimer_intervalTimer (s : State) :
    (s.restartGapTimer).intervalTimer = s.intervalTimer := rfl
@[simp] theorem State.restartGapTimer_notices (s : State) : (s.restartGapTimer).notices = s.notices := rfl
@[simp] theorem State.restartGapTimer_tracker (s : State) : (s.restartGapTimer).tracker = s.tracker := rfl
@[simp] theorem State.restartGapTimer_timing (s : State) : (s.restartGapTimer).timing = s.timing := rfl
@[simp] theorem State.restartGapTimer_tx (s : State) : (s.restartGapTimer).tx = s.tx := rfl
@[simp] theorem State.restartGapTimer_freeCount (s : State) : (s.restartGapTimer).freeCount = s.freeCount := rfl
@[simp] theorem State.restartGapTimer_pending (s : State) : (s.restartGapTimer).pending = s.pending := rfl

/-! ### Reading a table after a write -/

@[simp] theorem State.window_setWindow (s : State) (w v : WinId) (x : Window) :
    (s.setWindow w x).window v = if w = v then x else s.window v := by
  simp only [State.window, State.setWindow, Fin.getElem_fin, Vector.getElem_set, Fin.ext_iff]

@[simp] theorem State.statsOf_setStats (s : State) (w v : WinId) (x : WindowStats) :
    (s.setStats w x).statsOf v = if w = v then x else s.statsOf v := by
  simp only [State.statsOf, State.setStats, Fin.getElem_fin, Vector.getElem_set, Fin.ext_iff]

@[simp] theorem State.watchOf_setWatch (s : State) (id other : WatchId) (x : Option WatchEntry) :
    (s.setWatch id x).watchOf other = if id = other then x else s.watchOf other := by
  simp only [State.watchOf, State.setWatch, Fin.getElem_fin, Vector.getElem_set, Fin.ext_iff]

@[simp] theorem State.tagOf_setTag (s : State) (t u : Tag) (x : TagEntry) :
    (s.setTag t x).tagOf u = if t = u then x else s.tagOf u := by
  simp only [State.tagOf, State.setTag, Fin.getElem_fin, Vector.getElem_set, Fin.ext_iff]

@[simp] theorem State.statsOf_setWindow (s : State) (w v : WinId) (x : Window) :
    (s.setWindow w x).statsOf v = s.statsOf v := rfl

@[simp] theorem State.window_setStats (s : State) (w v : WinId) (x : WindowStats) :
    (s.setStats w x).window v = s.window v := rfl

/-- A table read looks at its own field only. -/
theorem State.window_congr {s t : State} (h : t.windows = s.windows) (w : WinId) : t.window w = s.window w := by
  simp [State.window, h]

theorem State.statsOf_congr {s t : State} (h : t.stats = s.stats) (w : WinId) : t.statsOf w = s.statsOf w := by
  simp [State.statsOf, h]

theorem State.watchOf_congr {s t : State} (h : t.watch = s.watch) (id : WatchId) : t.watchOf id = s.watchOf id := by
  simp [State.watchOf, h]

theorem State.tagOf_congr {s t : State} (h : t.tracker.tags = s.tracker.tags) (u : Tag) : t.tagOf u = s.tagOf u := by
  simp [State.tagOf, h]

theorem State.entryOf_congr {s t : State} (h : t.queue = s.queue) (u : Tag) : t.entryOf u = s.entryOf u := by
  simp [State.entryOf, h]

/-- The entry of a tag carries that tag and is queued. -/
theorem State.entryOf_some {s : State} {t : Tag} {e : LinkEntry} (h : s.entryOf t = some e) :
    e.tag = t ∧ e ∈ s.queue := by
  refine ⟨?_, List.mem_of_find?_eq_some h⟩
  simpa using List.find?_some h

end Sys2Proof.Machine
end

