-- ==== Sys2Proof/Laws/Ops.lean ====
section
/-! SUPPORT. One lemma per shared operation that says once what it can do: the transmitter's choice, the envelope of a
command, the bus operations, the completion of entries, the flush and the health machine's input. -/

namespace Sys2Proof.Machine

/-! ## The transmitter's choice (R168) -/

/-- What a choice can be: nothing, the oldest immediate reply, the oldest listed reply, or the due notice. -/
theorem State.transmit_cases (s : State) {P : State → Prop} (hnothing : P s)
    (himmediate : ∀ r rest, s.tx.frame = none → s.tracker.immediate = r :: rest → P (s.takeImmediate r rest))
    (hreply : ∀ r, s.tx.frame = none → s.tracker.immediate = [] → s.outgoingReply = some r → P (s.takeReply r))
    (hnotice : ∀ n, s.tx.frame = none → s.tracker.immediate = [] → s.notices.due = some n → P (s.takeNotice n)) :
    P s.transmit := by
  unfold State.transmit
  split
  · exact hnothing
  · rename_i hframe
    have hfree : s.tx.frame = none := by simpa using hframe
    split
    · exact himmediate _ _ hfree ‹_›
    · rename_i himm
      split
      · exact hnothing
      · exact hreply _ hfree himm ‹_›
      · exact hnotice _ hfree himm ‹_›
      · split
        · exact hnotice _ hfree himm ‹_›
        · exact hreply _ hfree himm ‹_›

/-- What every take leaves alone, the choice leaves alone. -/
theorem State.transmit_keep {α : Type} (s : State) (f : State → α) 
    (himmediate : ∀ r rest, f (s.takeImmediate r rest) = f s)
    (hreply : ∀ r, f (s.takeReply r) = f s) (hnotice : ∀ n, f (s.takeNotice n) = f s) : f s.transmit = f s :=
  s.transmit_cases (P := fun t => f t = f s) rfl (fun r rest _ _ => himmediate r rest) (fun r _ _ _ => hreply r)
    (fun n _ _ _ => hnotice n)

@[simp] theorem State.transmit_phase (s : State) : (s.transmit).phase = s.phase :=
  s.transmit_keep State.phase (fun _ _ => rfl) (fun _ => rfl) (fun _ => rfl)
@[simp] theorem State.transmit_lreq (s : State) : (s.transmit).lreq = s.lreq :=
  s.transmit_keep State.lreq (fun _ _ => rfl) (fun _ => rfl) (fun _ => rfl)
@[simp] theorem State.transmit_rate (s : State) : (s.transmit).rate = s.rate :=
  s.transmit_keep State.rate (fun _ _ => rfl) (fun _ => rfl) (fun _ => rfl)
@[simp] theorem State.transmit_now (s : State) : (s.transmit).now = s.now :=
  s.transmit_keep State.now (fun _ _ => rfl) (fun _ => rfl) (fun _ => rfl)
@[simp] theorem State.transmit_windows (s : State) : (s.transmit).windows = s.windows :=
  s.transmit_keep State.windows (fun _ _ => rfl) (fun _ => rfl) (fun _ => rfl)
@[simp] theorem State.transmit_bus (s : State) : (s.transmit).bus = s.bus :=
  s.transmit_keep State.bus (fun _ _ => rfl) (fun _ => rfl) (fun _ => rfl)
@[simp] theorem State.transmit_queue (s : State) : (s.transmit).queue = s.queue :=
  s.transmit_keep State.queue (fun _ _ => rfl) (fun _ => rfl) (fun _ => rfl)
@[simp] theorem State.transmit_linkGrants (s : State) : (s.transmit).linkGrants = s.linkGrants :=
  s.transmit_keep State.linkGrants (fun _ _ => rfl) (fun _ => rfl) (fun _ => rfl)
@[simp] theorem State.transmit_watch (s : State) : (s.transmit).watch = s.watch :=
  s.transmit_keep State.watch (fun _ _ => rfl) (fun _ => rfl) (fun _ => rfl)
@[simp] theorem State.transmit_pollQueue (s : State) : (s.transmit).pollQueue = s.pollQueue :=
  s.transmit_keep State.pollQueue (fun _ _ => rfl) (fun _ => rfl) (fun _ => rfl)
@[simp] theorem State.transmit_pollTimer (s : State) : (s.transmit).pollTimer = s.pollTimer :=
  s.transmit_keep State.pollTimer (fun _ _ => rfl) (fun _ => rfl) (fun _ => rfl)
@[simp] theorem State.transmit_stats (s : State) : (s.transmit).stats = s.stats :=
  s.transmit_keep State.stats (fun _ _ => rfl) (fun _ => rfl) (fun _ => rfl)
@[simp] theorem State.transmit_intervalNumber (s : State) : (s.transmit).intervalNumber = s.intervalNumber :=
  s.transmit_keep State.intervalNumber (fun _ _ => rfl) (fun _ => rfl) (fun _ => rfl)
@[simp] theorem State.transmit_intervalTimer (s : State) : (s.transmit).intervalTimer = s.intervalTimer :=
  s.transmit_keep State.intervalTimer (fun _ _ => rfl) (fun _ => rfl) (fun _ => rfl)
@[simp] theorem State.transmit_timing (s : State) : (s.transmit).timing = s.timing :=
  s.transmit_keep State.timing (fun _ _ => rfl) (fun _ => rfl) (fun _ => rfl)
@[simp] theorem State.transmit_rx (s : State) : (s.transmit).rx = s.rx :=
  s.transmit_keep State.rx (fun _ _ => rfl) (fun _ => rfl) (fun _ => rfl)
@[simp] theorem State.transmit_freeCount (s : State) : (s.transmit).freeCount = s.freeCount :=
  s.transmit_keep State.freeCount (fun _ _ => rfl) (fun _ => rfl) (fun _ => rfl)
@[simp] theorem State.transmit_pending (s : State) : (s.transmit).pending = s.pending :=
  s.transmit_keep State.pending (fun _ _ => rfl) (fun _ => rfl) (fun _ => rfl)

@[simp] theorem State.transmit_tags (s : State) : s.transmit.tracker.tags = s.tracker.tags :=
  s.transmit_keep (fun t => t.tracker.tags) (fun _ _ => rfl) (fun _ => rfl) (fun _ => rfl)

@[simp] theorem State.transmit_duplicates (s : State) : s.transmit.tracker.duplicates = s.tracker.duplicates :=
  s.transmit_keep (fun t => t.tracker.duplicates) (fun _ _ => rfl) (fun _ => rfl) (fun _ => rfl)

@[simp] theorem State.transmit_drops (s : State) : s.transmit.tracker.drops = s.tracker.drops :=
  s.transmit_keep (fun t => t.tracker.drops) (fun _ _ => rfl) (fun _ => rfl) (fun _ => rfl)

@[simp] theorem State.transmit_next (s : State) : s.transmit.notices.next = s.notices.next :=
  s.transmit_keep (fun t => t.notices.next) (fun _ _ => rfl) (fun _ => rfl) (fun _ => rfl)

@[simp] theorem State.transmit_lost (s : State) : s.transmit.notices.lost = s.notices.lost :=
  s.transmit_keep (fun t => t.notices.lost) (fun _ _ => rfl) (fun _ => rfl) (fun _ => rfl)

@[simp] theorem State.transmit_link (s : State) : s.transmit.notices.link = s.notices.link :=
  s.transmit_keep (fun t => t.notices.link) (fun _ _ => rfl) (fun _ => rfl) (fun _ => rfl)

@[simp] theorem State.transmit_resendCount (s : State) :
    s.transmit.notices.resendCount = s.notices.resendCount :=
  s.transmit_keep (fun t => t.notices.resendCount) (fun _ _ => rfl) (fun _ => rfl) (fun _ => rfl)

@[simp] theorem State.transmit_resendTimer (s : State) :
    s.transmit.notices.resendTimer = s.notices.resendTimer :=
  s.transmit_keep (fun t => t.notices.resendTimer) (fun _ _ => rfl) (fun _ => rfl) (fun _ => rfl)

@[simp] theorem State.transmit_window (s : State) (w : WinId) : s.transmit.window w = s.window w :=
  State.window_congr (by simp) w

@[simp] theorem State.transmit_statsOf (s : State) (w : WinId) : s.transmit.statsOf w = s.statsOf w :=
  State.statsOf_congr (by simp) w

@[simp] theorem State.transmit_watchOf (s : State) (id : WatchId) : s.transmit.watchOf id = s.watchOf id :=
  State.watchOf_congr (by simp) id

@[simp] theorem State.transmit_tagOf (s : State) (t : Tag) : s.transmit.tagOf t = s.tagOf t :=
  State.tagOf_congr (by simp) t

@[simp] theorem State.transmit_entryOf (s : State) (t : Tag) : s.transmit.entryOf t = s.entryOf t :=
  State.entryOf_congr (by simp) t

/-- The mark of a take changes the sent marks only. -/
theorem NoticeUnit.markTaken_queue_unsent (u : NoticeUnit) (n : Notice) :
    (u.markTaken n).queue.map Notice.unsent = u.queue.map Notice.unsent := by
  simp only [NoticeUnit.markTaken, List.map_map]
  refine List.map_congr_left fun x _ => ?_
  simp only [Function.comp_apply]
  split <;> rfl

@[simp] theorem State.transmit_unsent (s : State) :
    s.transmit.notices.queue.map Notice.unsent = s.notices.queue.map Notice.unsent :=
  s.transmit_keep (fun t => t.notices.queue.map Notice.unsent) (fun _ _ => rfl) (fun _ => rfl)
    (fun n => s.notices.markTaken_queue_unsent n)

/-- The number of notices is not changed by a choice. -/
@[simp] theorem State.transmit_noticeCount (s : State) :
    s.transmit.notices.queue.length = s.notices.queue.length := by
  have h := congrArg List.length s.transmit_unsent
  rwa [List.length_map, List.length_map] at h

/-- Two states are one off the wire when they agree on every field but those a choice of the transmitter changes. -/
theorem State.offWire_ext {s t : State} (hphase : t.phase = s.phase) (hlreq : t.lreq = s.lreq)
    (hrate : t.rate = s.rate) (hnow : t.now = s.now) (hwindows : t.windows = s.windows) (hbus : t.bus = s.bus) (hqueue : t.queue = s.queue)
    (hgrants : t.linkGrants = s.linkGrants) (hwatch : t.watch = s.watch) (hpolls : t.pollQueue = s.pollQueue)
    (hpollTimer : t.pollTimer = s.pollTimer) (hstats : t.stats = s.stats)
    (hinterval : t.intervalNumber = s.intervalNumber) (hintervalTimer : t.intervalTimer = s.intervalTimer)
    (htiming : t.timing = s.timing) (hrx : t.rx = s.rx) (hfree : t.freeCount = s.freeCount)
    (hpending : t.pending = s.pending) (htags : t.tracker.tags = s.tracker.tags)
    (hduplicates : t.tracker.duplicates = s.tracker.duplicates)
    (hnotices : t.notices.queue.map Notice.unsent = s.notices.queue.map Notice.unsent)
    (hnext : t.notices.next = s.notices.next) (hlost : t.notices.lost = s.notices.lost)
    (hlink : t.notices.link = s.notices.link) (hresends : t.notices.resendCount = s.notices.resendCount)
    (hresendTimer : t.notices.resendTimer = s.notices.resendTimer) : t.offWire = s.offWire := by
  simp [State.offWire, *]

/-- A choice of the transmitter is off the wire invisible. -/
@[simp] theorem State.transmit_offWire (s : State) : s.transmit.offWire = s.offWire := by
  refine s.transmit_cases (P := fun t => t.offWire = s.offWire) rfl ?_ ?_ ?_
  · intros; rfl
  · intros; rfl
  · intro n _ _ _
    simp only [State.offWire, State.takeNotice, State.send]
    rw [NoticeUnit.markTaken_queue_unsent]
    rfl

/-- A SENDING transmitter makes no choice. -/
theorem State.transmit_of_sending {s : State} (h : s.tx.frame.isSome = true) : s.transmit = s := by
  simp [State.transmit, h]

/-- Nothing is chosen where nothing waits or a frame is in transmission. -/
theorem State.transmit_of_settled {s : State} (h : s.settled) : s.transmit = s := by
  rcases h with h | ⟨himm, hout, hdue⟩
  · exact State.transmit_of_sending h
  · simp [State.transmit, himm, hout, hdue]

/-- After a choice nothing waits for a FREE transmitter. -/
theorem State.transmit_settled (s : State) : s.transmit.settled := by
  unfold State.transmit
  split
  · exact Or.inl ‹_›
  · split
    · exact Or.inl rfl
    · split
      · exact Or.inr ⟨‹_›, ‹_›, ‹_›⟩
      · exact Or.inl rfl
      · exact Or.inl rfl
      · split
        · exact Or.inl rfl
        · exact Or.inl rfl

/-- A choice made at once again changes nothing. -/
@[simp] theorem State.transmit_transmit (s : State) : s.transmit.transmit = s.transmit :=
  State.transmit_of_settled s.transmit_settled

/-- An immediate reply is taken first (R168). -/
theorem State.transmit_of_immediate {s : State} {r : Reply} {rest : List Reply} (hfree : s.tx.frame = none)
    (himm : s.tracker.immediate = r :: rest) : s.transmit = s.takeImmediate r rest := by
  simp [State.transmit, hfree, himm]

/-! ## The envelope of a command -/

theorem State.event_running {s : State} (h : s.phase = .running) (f : State → State) :
    s.event f = (f s.transmit).transmit := by
  simp [State.event, h]

theorem State.event_inReset {s : State} {cause : ResetCause} (h : s.phase = .inReset cause) (f : State → State) :
    s.event f = s := by
  simp [State.event, h]

/-- After a command a FREE transmitter has made its choice (R168). -/
theorem State.event_settled {s : State} (h : s.phase = .running) (f : State → State) : (s.event f).settled := by
  rw [State.event_running h]
  exact State.transmit_settled _

/-- Where the acknowledgement behind an entry falls with a take, the frame is marked for its timer (R139). -/
theorem State.chooseAfterEntry_of_ack {b s : State} (hack : b.ackEmptiesBehind = true) (hfree : s.tx.frame = none) :
    b.chooseAfterEntry s = s.transmit.deferTimer := by
  simp [State.chooseAfterEntry, hack, hfree]

/-- After an entry a SENDING transmitter makes no choice. -/
theorem State.chooseAfterEntry_of_sending (b : State) {s : State} (h : s.tx.frame.isSome = true) :
    b.chooseAfterEntry s = s := by
  cases hf : s.tx.frame <;> simp_all [State.chooseAfterEntry, State.transmit]

/-- What a choice keeps and the mark of the frame in transmission does not touch, the choice after an entry leaves
alone. -/
theorem State.chooseAfterEntry_ind {P : State → Prop} {b s : State} (h : P s.transmit)
    (hdefer : P s.transmit → P s.transmit.deferTimer) : P (b.chooseAfterEntry s) := by
  unfold State.chooseAfterEntry
  split
  · exact hdefer h
  · exact h

theorem State.chooseAfterEntry_tracker (b s : State) : (b.chooseAfterEntry s).tracker = s.transmit.tracker :=
  State.chooseAfterEntry_ind (P := fun t => t.tracker = s.transmit.tracker) rfl id

/-- The choice after an entry marks the taken notice as every choice does (R134, R169). -/
theorem State.chooseAfterEntry_notices (b s : State) : (b.chooseAfterEntry s).notices = s.transmit.notices :=
  State.chooseAfterEntry_ind (P := fun t => t.notices = s.transmit.notices) rfl id

/-- What stands on TXD after an entry is what any choice puts there. -/
theorem State.chooseAfterEntry_frame (b s : State) :
    ((b.chooseAfterEntry s).tx.frame.map fun f => (f.bytes, f.notice)) =
      s.transmit.tx.frame.map fun f => (f.bytes, f.notice) :=
  State.chooseAfterEntry_ind
    (P := fun t => (t.tx.frame.map fun f => (f.bytes, f.notice)) = s.transmit.tx.frame.map fun f => (f.bytes, f.notice))
    rfl fun _ => by simp only [State.deferTimer, Option.map_map]; rfl

/-- After the choice that follows an entry nothing waits for a FREE transmitter. -/
theorem State.chooseAfterEntry_settled (b s : State) : (b.chooseAfterEntry s).settled :=
  State.chooseAfterEntry_ind s.transmit_settled fun h =>
    h.imp (fun h => by simpa [State.deferTimer] using h) fun h => h

/-- What neither a choice nor the mark of its frame changes, the choice after an entry leaves alone. -/
theorem State.chooseAfterEntry_keep {α : Type} {b s : State} {f : State → α} (h : f s.transmit = f s)
    (hdefer : f s.transmit.deferTimer = f s.transmit) : f (b.chooseAfterEntry s) = f s :=
  State.chooseAfterEntry_ind (P := fun t => f t = f s) h hdefer.trans

@[simp] theorem State.chooseAfterEntry_offWire (b s : State) : (b.chooseAfterEntry s).offWire = s.offWire :=
  State.chooseAfterEntry_keep s.transmit_offWire rfl
@[simp] theorem State.chooseAfterEntry_phase (b s : State) : (b.chooseAfterEntry s).phase = s.phase :=
  State.chooseAfterEntry_keep (by simp) rfl
@[simp] theorem State.chooseAfterEntry_bus (b s : State) : (b.chooseAfterEntry s).bus = s.bus :=
  State.chooseAfterEntry_keep (by simp) rfl
@[simp] theorem State.chooseAfterEntry_queue (b s : State) : (b.chooseAfterEntry s).queue = s.queue :=
  State.chooseAfterEntry_keep (by simp) rfl
@[simp] theorem State.chooseAfterEntry_windows (b s : State) : (b.chooseAfterEntry s).windows = s.windows :=
  State.chooseAfterEntry_keep (by simp) rfl
@[simp] theorem State.chooseAfterEntry_stats (b s : State) : (b.chooseAfterEntry s).stats = s.stats :=
  State.chooseAfterEntry_keep (by simp) rfl
@[simp] theorem State.chooseAfterEntry_watch (b s : State) : (b.chooseAfterEntry s).watch = s.watch :=
  State.chooseAfterEntry_keep (by simp) rfl
@[simp] theorem State.chooseAfterEntry_pollQueue (b s : State) : (b.chooseAfterEntry s).pollQueue = s.pollQueue :=
  State.chooseAfterEntry_keep (by simp) rfl
@[simp] theorem State.chooseAfterEntry_pending (b s : State) : (b.chooseAfterEntry s).pending = s.pending :=
  State.chooseAfterEntry_keep (by simp) rfl
@[simp] theorem State.chooseAfterEntry_tags (b s : State) : (b.chooseAfterEntry s).tracker.tags = s.tracker.tags :=
  State.chooseAfterEntry_keep (f := fun t => t.tracker.tags) (by simp) rfl
@[simp] theorem State.chooseAfterEntry_window (b s : State) (w : WinId) : (b.chooseAfterEntry s).window w = s.window w :=
  State.chooseAfterEntry_keep (f := fun t => t.window w) (by simp) rfl
@[simp] theorem State.chooseAfterEntry_statsOf (b s : State) (w : WinId) :
    (b.chooseAfterEntry s).statsOf w = s.statsOf w :=
  State.chooseAfterEntry_keep (f := fun t => t.statsOf w) (by simp) rfl
@[simp] theorem State.chooseAfterEntry_watchOf (b s : State) (id : WatchId) :
    (b.chooseAfterEntry s).watchOf id = s.watchOf id :=
  State.chooseAfterEntry_keep (f := fun t => t.watchOf id) (by simp) rfl
@[simp] theorem State.chooseAfterEntry_tagOf (b s : State) (t : Tag) : (b.chooseAfterEntry s).tagOf t = s.tagOf t :=
  State.chooseAfterEntry_keep (f := fun u => u.tagOf t) (by simp) rfl
@[simp] theorem State.chooseAfterEntry_entryOf (b s : State) (t : Tag) : (b.chooseAfterEntry s).entryOf t = s.entryOf t :=
  State.chooseAfterEntry_keep (f := fun u => u.entryOf t) (by simp) rfl

theorem State.entryEvent_running {s : State} (h : s.phase = .running) (f : State → State) :
    s.entryEvent f = s.transmit.chooseAfterEntry (f s.transmit) := by
  simp [State.entryEvent, h]

theorem State.entryEvent_inReset {s : State} {cause : ResetCause} (h : s.phase = .inReset cause)
    (f : State → State) : s.entryEvent f = s := by
  simp [State.entryEvent, h]

/-! ## The bus (R22 to R24, R35): each operation writes the bus only -/

theorem State.takeLend_eq (s : State) : s.takeLend = { s with bus := s.takeLend.bus } := by
  unfold State.takeLend
  split <;> rfl

theorem State.endTurn_eq (s : State) : s.endTurn = { s with bus := s.endTurn.bus } := by
  unfold State.endTurn
  split
  · exact s.takeLend_eq
  · rfl

theorem State.startNext_eq (s : State) (t : Turn) : s.startNext t = { s with bus := (s.startNext t).bus } := by
  unfold State.startNext
  split
  · exact s.endTurn_eq
  · rfl

theorem State.beginTurn_eq (s : State) (t : Turn) : s.beginTurn t = { s with bus := (s.beginTurn t).bus } := by
  unfold State.beginTurn
  split
  · exact s.startNext_eq t
  · split
    · exact s.startNext_eq t
    · rfl

theorem State.continueTurn_eq (s : State) (t : Turn) (next : TurnNext) :
    s.continueTurn t next = { s with bus := (s.continueTurn t next).bus } := by
  unfold State.continueTurn
  split
  · exact s.startNext_eq _
  · rfl
  · exact s.endTurn_eq

theorem State.cutLinkTurn_eq (s : State) : s.cutLinkTurn = { s with bus := s.cutLinkTurn.bus } := by
  unfold State.cutLinkTurn
  split
  · rfl
  · split
    · split
      · rfl
      · exact s.endTurn_eq
    · rfl
    · rfl

theorem State.orphanPoll_eq (s : State) (id : WatchId) :
    s.orphanPoll id = { s with bus := (s.orphanPoll id).bus } := by
  unfold State.orphanPoll
  split
  · rfl
  · split
    · split
      · exact s.endTurn_eq
      · rfl
    · rfl

@[simp] theorem State.takeLend_phase (s : State) : (s.takeLend).phase = s.phase := by rw [State.takeLend_eq]
@[simp] theorem State.takeLend_lreq (s : State) : (s.takeLend).lreq = s.lreq := by rw [State.takeLend_eq]
@[simp] theorem State.takeLend_rate (s : State) : (s.takeLend).rate = s.rate := by rw [State.takeLend_eq]
@[simp] theorem State.takeLend_now (s : State) : (s.takeLend).now = s.now := by rw [State.takeLend_eq]
@[simp] theorem State.takeLend_windows (s : State) : (s.takeLend).windows = s.windows := by rw [State.takeLend_eq]
@[simp] theorem State.takeLend_queue (s : State) : (s.takeLend).queue = s.queue := by rw [State.takeLend_eq]
@[simp] theorem State.takeLend_linkGrants (s : State) :
    (s.takeLend).linkGrants = s.linkGrants := by rw [State.takeLend_eq]
@[simp] theorem State.takeLend_watch (s : State) : (s.takeLend).watch = s.watch := by rw [State.takeLend_eq]
@[simp] theorem State.takeLend_pollQueue (s : State) :
    (s.takeLend).pollQueue = s.pollQueue := by rw [State.takeLend_eq]
@[simp] theorem State.takeLend_pollTimer (s : State) :
    (s.takeLend).pollTimer = s.pollTimer := by rw [State.takeLend_eq]
@[simp] theorem State.takeLend_stats (s : State) : (s.takeLend).stats = s.stats := by rw [State.takeLend_eq]
@[simp] theorem State.takeLend_intervalNumber (s : State) :
    (s.takeLend).intervalNumber = s.intervalNumber := by rw [State.takeLend_eq]
@[simp] theorem State.takeLend_intervalTimer (s : State) :
    (s.takeLend).intervalTimer = s.intervalTimer := by rw [State.takeLend_eq]
@[simp] theorem State.takeLend_notices (s : State) : (s.takeLend).notices = s.notices := by rw [State.takeLend_eq]
@[simp] theorem State.takeLend_tracker (s : State) : (s.takeLend).tracker = s.tracker := by rw [State.takeLend_eq]
@[simp] theorem State.takeLend_timing (s : State) : (s.takeLend).timing = s.timing := by rw [State.takeLend_eq]
@[simp] theorem State.takeLend_rx (s : State) : (s.takeLend).rx = s.rx := by rw [State.takeLend_eq]
@[simp] theorem State.takeLend_tx (s : State) : (s.takeLend).tx = s.tx := by rw [State.takeLend_eq]
@[simp] theorem State.takeLend_freeCount (s : State) :
    (s.takeLend).freeCount = s.freeCount := by rw [State.takeLend_eq]
@[simp] theorem State.takeLend_pending (s : State) : (s.takeLend).pending = s.pending := by rw [State.takeLend_eq]

@[simp] theorem State.endTurn_phase (s : State) : (s.endTurn).phase = s.phase := by rw [State.endTurn_eq]
@[simp] theorem State.endTurn_lreq (s : State) : (s.endTurn).lreq = s.lreq := by rw [State.endTurn_eq]
@[simp] theorem State.endTurn_rate (s : State) : (s.endTurn).rate = s.rate := by rw [State.endTurn_eq]
@[simp] theorem State.endTurn_now (s : State) : (s.endTurn).now = s.now := by rw [State.endTurn_eq]
@[simp] theorem State.endTurn_windows (s : State) : (s.endTurn).windows = s.windows := by rw [State.endTurn_eq]
@[simp] theorem State.endTurn_queue (s : State) : (s.endTurn).queue = s.queue := by rw [State.endTurn_eq]
@[simp] theorem State.endTurn_linkGrants (s : State) :
    (s.endTurn).linkGrants = s.linkGrants := by rw [State.endTurn_eq]
@[simp] theorem State.endTurn_watch (s : State) : (s.endTurn).watch = s.watch := by rw [State.endTurn_eq]
@[simp] theorem State.endTurn_pollQueue (s : State) : (s.endTurn).pollQueue = s.pollQueue := by rw [State.endTurn_eq]
@[simp] theorem State.endTurn_pollTimer (s : State) : (s.endTurn).pollTimer = s.pollTimer := by rw [State.endTurn_eq]
@[simp] theorem State.endTurn_stats (s : State) : (s.endTurn).stats = s.stats := by rw [State.endTurn_eq]
@[simp] theorem State.endTurn_intervalNumber (s : State) :
    (s.endTurn).intervalNumber = s.intervalNumber := by rw [State.endTurn_eq]
@[simp] theorem State.endTurn_intervalTimer (s : State) :
    (s.endTurn).intervalTimer = s.intervalTimer := by rw [State.endTurn_eq]
@[simp] theorem State.endTurn_notices (s : State) : (s.endTurn).notices = s.notices := by rw [State.endTurn_eq]
@[simp] theorem State.endTurn_tracker (s : State) : (s.endTurn).tracker = s.tracker := by rw [State.endTurn_eq]
@[simp] theorem State.endTurn_timing (s : State) : (s.endTurn).timing = s.timing := by rw [State.endTurn_eq]
@[simp] theorem State.endTurn_rx (s : State) : (s.endTurn).rx = s.rx := by rw [State.endTurn_eq]
@[simp] theorem State.endTurn_tx (s : State) : (s.endTurn).tx = s.tx := by rw [State.endTurn_eq]
@[simp] theorem State.endTurn_freeCount (s : State) : (s.endTurn).freeCount = s.freeCount := by rw [State.endTurn_eq]
@[simp] theorem State.endTurn_pending (s : State) : (s.endTurn).pending = s.pending := by rw [State.endTurn_eq]

@[simp] theorem State.startNext_phase (s : State) (t : Turn) :
    (s.startNext t).phase = s.phase := by rw [State.startNext_eq]
@[simp] theorem State.startNext_lreq (s : State) (t : Turn) :
    (s.startNext t).lreq = s.lreq := by rw [State.startNext_eq]
@[simp] theorem State.startNext_rate (s : State) (t : Turn) :
    (s.startNext t).rate = s.rate := by rw [State.startNext_eq]
@[simp] theorem State.startNext_now (s : State) (t : Turn) : (s.startNext t).now = s.now := by rw [State.startNext_eq]
@[simp] theorem State.startNext_windows (s : State) (t : Turn) :
    (s.startNext t).windows = s.windows := by rw [State.startNext_eq]
@[simp] theorem State.startNext_queue (s : State) (t : Turn) :
    (s.startNext t).queue = s.queue := by rw [State.startNext_eq]
@[simp] theorem State.startNext_linkGrants (s : State) (t : Turn) :
    (s.startNext t).linkGrants = s.linkGrants := by rw [State.startNext_eq]
@[simp] theorem State.startNext_watch (s : State) (t : Turn) :
    (s.startNext t).watch = s.watch := by rw [State.startNext_eq]
@[simp] theorem State.startNext_pollQueue (s : State) (t : Turn) :
    (s.startNext t).pollQueue = s.pollQueue := by rw [State.startNext_eq]
@[simp] theorem State.startNext_pollTimer (s : State) (t : Turn) :
    (s.startNext t).pollTimer = s.pollTimer := by rw [State.startNext_eq]
@[simp] theorem State.startNext_stats (s : State) (t : Turn) :
    (s.startNext t).stats = s.stats := by rw [State.startNext_eq]
@[simp] theorem State.startNext_intervalNumber (s : State) (t : Turn) :
    (s.startNext t).intervalNumber = s.intervalNumber := by rw [State.startNext_eq]
@[simp] theorem State.startNext_intervalTimer (s : State) (t : Turn) :
    (s.startNext t).intervalTimer = s.intervalTimer := by rw [State.startNext_eq]
@[simp] theorem State.startNext_notices (s : State) (t : Turn) :
    (s.startNext t).notices = s.notices := by rw [State.startNext_eq]
@[simp] theorem State.startNext_tracker (s : State) (t : Turn) :
    (s.startNext t).tracker = s.tracker := by rw [State.startNext_eq]
@[simp] theorem State.startNext_timing (s : State) (t : Turn) :
    (s.startNext t).timing = s.timing := by rw [State.startNext_eq]
@[simp] theorem State.startNext_rx (s : State) (t : Turn) : (s.startNext t).rx = s.rx := by rw [State.startNext_eq]
@[simp] theorem State.startNext_tx (s : State) (t : Turn) : (s.startNext t).tx = s.tx := by rw [State.startNext_eq]
@[simp] theorem State.startNext_freeCount (s : State) (t : Turn) :
    (s.startNext t).freeCount = s.freeCount := by rw [State.startNext_eq]
@[simp] theorem State.startNext_pending (s : State) (t : Turn) :
    (s.startNext t).pending = s.pending := by rw [State.startNext_eq]

@[simp] theorem State.beginTurn_phase (s : State) (t : Turn) :
    (s.beginTurn t).phase = s.phase := by rw [State.beginTurn_eq]
@[simp] theorem State.beginTurn_lreq (s : State) (t : Turn) :
    (s.beginTurn t).lreq = s.lreq := by rw [State.beginTurn_eq]
@[simp] theorem State.beginTurn_rate (s : State) (t : Turn) :
    (s.beginTurn t).rate = s.rate := by rw [State.beginTurn_eq]
@[simp] theorem State.beginTurn_now (s : State) (t : Turn) : (s.beginTurn t).now = s.now := by rw [State.beginTurn_eq]
@[simp] theorem State.beginTurn_windows (s : State) (t : Turn) :
    (s.beginTurn t).windows = s.windows := by rw [State.beginTurn_eq]
@[simp] theorem State.beginTurn_queue (s : State) (t : Turn) :
    (s.beginTurn t).queue = s.queue := by rw [State.beginTurn_eq]
@[simp] theorem State.beginTurn_linkGrants (s : State) (t : Turn) :
    (s.beginTurn t).linkGrants = s.linkGrants := by rw [State.beginTurn_eq]
@[simp] theorem State.beginTurn_watch (s : State) (t : Turn) :
    (s.beginTurn t).watch = s.watch := by rw [State.beginTurn_eq]
@[simp] theorem State.beginTurn_pollQueue (s : State) (t : Turn) :
    (s.beginTurn t).pollQueue = s.pollQueue := by rw [State.beginTurn_eq]
@[simp] theorem State.beginTurn_pollTimer (s : State) (t : Turn) :
    (s.beginTurn t).pollTimer = s.pollTimer := by rw [State.beginTurn_eq]
@[simp] theorem State.beginTurn_stats (s : State) (t : Turn) :
    (s.beginTurn t).stats = s.stats := by rw [State.beginTurn_eq]
@[simp] theorem State.beginTurn_intervalNumber (s : State) (t : Turn) :
    (s.beginTurn t).intervalNumber = s.intervalNumber := by rw [State.beginTurn_eq]
@[simp] theorem State.beginTurn_intervalTimer (s : State) (t : Turn) :
    (s.beginTurn t).intervalTimer = s.intervalTimer := by rw [State.beginTurn_eq]
@[simp] theorem State.beginTurn_notices (s : State) (t : Turn) :
    (s.beginTurn t).notices = s.notices := by rw [State.beginTurn_eq]
@[simp] theorem State.beginTurn_tracker (s : State) (t : Turn) :
    (s.beginTurn t).tracker = s.tracker := by rw [State.beginTurn_eq]
@[simp] theorem State.beginTurn_timing (s : State) (t : Turn) :
    (s.beginTurn t).timing = s.timing := by rw [State.beginTurn_eq]
@[simp] theorem State.beginTurn_rx (s : State) (t : Turn) : (s.beginTurn t).rx = s.rx := by rw [State.beginTurn_eq]
@[simp] theorem State.beginTurn_tx (s : State) (t : Turn) : (s.beginTurn t).tx = s.tx := by rw [State.beginTurn_eq]
@[simp] theorem State.beginTurn_freeCount (s : State) (t : Turn) :
    (s.beginTurn t).freeCount = s.freeCount := by rw [State.beginTurn_eq]
@[simp] theorem State.beginTurn_pending (s : State) (t : Turn) :
    (s.beginTurn t).pending = s.pending := by rw [State.beginTurn_eq]

@[simp] theorem State.cutLinkTurn_phase (s : State) : (s.cutLinkTurn).phase = s.phase := by rw [State.cutLinkTurn_eq]
@[simp] theorem State.cutLinkTurn_lreq (s : State) : (s.cutLinkTurn).lreq = s.lreq := by rw [State.cutLinkTurn_eq]
@[simp] theorem State.cutLinkTurn_rate (s : State) : (s.cutLinkTurn).rate = s.rate := by rw [State.cutLinkTurn_eq]
@[simp] theorem State.cutLinkTurn_now (s : State) : (s.cutLinkTurn).now = s.now := by rw [State.cutLinkTurn_eq]
@[simp] theorem State.cutLinkTurn_windows (s : State) :
    (s.cutLinkTurn).windows = s.windows := by rw [State.cutLinkTurn_eq]
@[simp] theorem State.cutLinkTurn_queue (s : State) : (s.cutLinkTurn).queue = s.queue := by rw [State.cutLinkTurn_eq]
@[simp] theorem State.cutLinkTurn_linkGrants (s : State) :
    (s.cutLinkTurn).linkGrants = s.linkGrants := by rw [State.cutLinkTurn_eq]
@[simp] theorem State.cutLinkTurn_watch (s : State) : (s.cutLinkTurn).watch = s.watch := by rw [State.cutLinkTurn_eq]
@[simp] theorem State.cutLinkTurn_pollQueue (s : State) :
    (s.cutLinkTurn).pollQueue = s.pollQueue := by rw [State.cutLinkTurn_eq]
@[simp] theorem State.cutLinkTurn_pollTimer (s : State) :
    (s.cutLinkTurn).pollTimer = s.pollTimer := by rw [State.cutLinkTurn_eq]
@[simp] theorem State.cutLinkTurn_stats (s : State) : (s.cutLinkTurn).stats = s.stats := by rw [State.cutLinkTurn_eq]
@[simp] theorem State.cutLinkTurn_intervalNumber (s : State) :
    (s.cutLinkTurn).intervalNumber = s.intervalNumber := by rw [State.cutLinkTurn_eq]
@[simp] theorem State.cutLinkTurn_intervalTimer (s : State) :
    (s.cutLinkTurn).intervalTimer = s.intervalTimer := by rw [State.cutLinkTurn_eq]
@[simp] theorem State.cutLinkTurn_notices (s : State) :
    (s.cutLinkTurn).notices = s.notices := by rw [State.cutLinkTurn_eq]
@[simp] theorem State.cutLinkTurn_tracker (s : State) :
    (s.cutLinkTurn).tracker = s.tracker := by rw [State.cutLinkTurn_eq]
@[simp] theorem State.cutLinkTurn_timing (s : State) :
    (s.cutLinkTurn).timing = s.timing := by rw [State.cutLinkTurn_eq]
@[simp] theorem State.cutLinkTurn_rx (s : State) : (s.cutLinkTurn).rx = s.rx := by rw [State.cutLinkTurn_eq]
@[simp] theorem State.cutLinkTurn_tx (s : State) : (s.cutLinkTurn).tx = s.tx := by rw [State.cutLinkTurn_eq]
@[simp] theorem State.cutLinkTurn_freeCount (s : State) :
    (s.cutLinkTurn).freeCount = s.freeCount := by rw [State.cutLinkTurn_eq]
@[simp] theorem State.cutLinkTurn_pending (s : State) :
    (s.cutLinkTurn).pending = s.pending := by rw [State.cutLinkTurn_eq]

@[simp] theorem State.orphanPoll_phase (s : State) (id : WatchId) :
    (s.orphanPoll id).phase = s.phase := by rw [State.orphanPoll_eq]
@[simp] theorem State.orphanPoll_lreq (s : State) (id : WatchId) :
    (s.orphanPoll id).lreq = s.lreq := by rw [State.orphanPoll_eq]
@[simp] theorem State.orphanPoll_rate (s : State) (id : WatchId) :
    (s.orphanPoll id).rate = s.rate := by rw [State.orphanPoll_eq]
@[simp] theorem State.orphanPoll_now (s : State) (id : WatchId) :
    (s.orphanPoll id).now = s.now := by rw [State.orphanPoll_eq]
@[simp] theorem State.orphanPoll_windows (s : State) (id : WatchId) :
    (s.orphanPoll id).windows = s.windows := by rw [State.orphanPoll_eq]
@[simp] theorem State.orphanPoll_queue (s : State) (id : WatchId) :
    (s.orphanPoll id).queue = s.queue := by rw [State.orphanPoll_eq]
@[simp] theorem State.orphanPoll_linkGrants (s : State) (id : WatchId) :
    (s.orphanPoll id).linkGrants = s.linkGrants := by rw [State.orphanPoll_eq]
@[simp] theorem State.orphanPoll_watch (s : State) (id : WatchId) :
    (s.orphanPoll id).watch = s.watch := by rw [State.orphanPoll_eq]
@[simp] theorem State.orphanPoll_pollQueue (s : State) (id : WatchId) :
    (s.orphanPoll id).pollQueue = s.pollQueue := by rw [State.orphanPoll_eq]
@[simp] theorem State.orphanPoll_pollTimer (s : State) (id : WatchId) :
    (s.orphanPoll id).pollTimer = s.pollTimer := by rw [State.orphanPoll_eq]
@[simp] theorem State.orphanPoll_stats (s : State) (id : WatchId) :
    (s.orphanPoll id).stats = s.stats := by rw [State.orphanPoll_eq]
@[simp] theorem State.orphanPoll_intervalNumber (s : State) (id : WatchId) :
    (s.orphanPoll id).intervalNumber = s.intervalNumber := by rw [State.orphanPoll_eq]
@[simp] theorem State.orphanPoll_intervalTimer (s : State) (id : WatchId) :
    (s.orphanPoll id).intervalTimer = s.intervalTimer := by rw [State.orphanPoll_eq]
@[simp] theorem State.orphanPoll_notices (s : State) (id : WatchId) :
    (s.orphanPoll id).notices = s.notices := by rw [State.orphanPoll_eq]
@[simp] theorem State.orphanPoll_tracker (s : State) (id : WatchId) :
    (s.orphanPoll id).tracker = s.tracker := by rw [State.orphanPoll_eq]
@[simp] theorem State.orphanPoll_timing (s : State) (id : WatchId) :
    (s.orphanPoll id).timing = s.timing := by rw [State.orphanPoll_eq]
@[simp] theorem State.orphanPoll_rx (s : State) (id : WatchId) :
    (s.orphanPoll id).rx = s.rx := by rw [State.orphanPoll_eq]
@[simp] theorem State.orphanPoll_tx (s : State) (id : WatchId) :
    (s.orphanPoll id).tx = s.tx := by rw [State.orphanPoll_eq]
@[simp] theorem State.orphanPoll_freeCount (s : State) (id : WatchId) :
    (s.orphanPoll id).freeCount = s.freeCount := by rw [State.orphanPoll_eq]
@[simp] theorem State.orphanPoll_pending (s : State) (id : WatchId) :
    (s.orphanPoll id).pending = s.pending := by rw [State.orphanPoll_eq]

/-- Taking a lend looks at the bus only. -/
theorem State.takeLend_bus_congr {s t : State} (h : t.bus = s.bus) : t.takeLend.bus = s.takeLend.bus := by
  unfold State.takeLend
  rw [h]
  split <;> rfl

/-- Ending a turn looks at the bus only. -/
theorem State.endTurn_bus_congr {s t : State} (h : t.bus = s.bus) : t.endTurn.bus = s.endTurn.bus := by
  unfold State.endTurn
  rw [h]
  split
  · exact State.takeLend_bus_congr h
  · rfl

/-- A turn that ends without a pending lend leaves the bus IDLE (R23). -/
theorem State.endTurn_bus_of_no_lend {s : State} (h : s.bus.lendPending = false) :
    s.endTurn.bus = { s.bus with state := .idle, turn := none } := by
  simp [State.endTurn, h]

/-- The next access of a turn that has work (R22, R24). -/
theorem State.startNext_of_work {s : State} {t : Turn} {st : SeqStep} {i : Nat} {held : Value}
    (h : s.workOf t = some (st, i, held)) :
    s.startNext t =
      { s with bus := { s.bus with turn := some t } }.startAccess t.window
        (st.pieceAt (s.window t.window).fields.lane i) (st.dirAt (s.window t.window).fields.lane i)
        (st.writeValue held) := by
  simp [State.startNext, h]

/-! ### The bus stays well formed (R21 to R23, R32 to R37) -/

theorem State.takeLend_wellFormed {s : State} (h : s.bus.lendPending = true) : s.takeLend.bus.wellFormed = true := by
  unfold State.takeLend
  split <;> simp_all [Bus.wellFormed]

theorem State.endTurn_wellFormed (s : State) : s.endTurn.bus.wellFormed = true := by
  unfold State.endTurn
  split
  · exact State.takeLend_wellFormed ‹_›
  · simp_all [Bus.wellFormed]

theorem State.startNext_wellFormed (s : State) (t : Turn) : (s.startNext t).bus.wellFormed = true := by
  unfold State.startNext
  split
  · exact s.endTurn_wellFormed
  · rfl

theorem State.beginTurn_wellFormed (s : State) (t : Turn) : (s.beginTurn t).bus.wellFormed = true := by
  unfold State.beginTurn
  split
  · exact s.startNext_wellFormed t
  · split
    · exact s.startNext_wellFormed t
    · rfl

/-! ## The tracker's lists (R152, R153) -/

@[simp] theorem State.list_tags (s : State) (t : Tag) : (s.list t).tracker.tags = s.tracker.tags := by
  unfold State.list; split <;> rfl

@[simp] theorem State.list_immediate (s : State) (t : Tag) :
    (s.list t).tracker.immediate = s.tracker.immediate := by
  unfold State.list; split <;> rfl

@[simp] theorem State.list_drops (s : State) (t : Tag) : (s.list t).tracker.drops = s.tracker.drops := by
  unfold State.list; split <;> rfl

@[simp] theorem State.list_tagOf (s : State) (t u : Tag) : (s.list t).tagOf u = s.tagOf u :=
  State.tagOf_congr (by simp) u

theorem State.mem_list (s : State) (t : Tag) : t ∈ (s.list t).tracker.outgoing := by
  unfold State.list
  split
  · assumption
  · simp

theorem State.list_eq (s : State) (t : Tag) : s.list t = { s with tracker := (s.list t).tracker } := by
  unfold State.list; split <;> rfl

@[simp] theorem State.list_notices (s : State) (t : Tag) : (s.list t).notices = s.notices := by rw [State.list_eq]

theorem State.store_eq (s : State) (t : Tag) (phase : Bool) (r : Reply) :
    s.store t phase r = { s with tracker := (s.store t phase r).tracker } := by
  unfold State.store
  rw [State.list_eq]
  rfl

@[simp] theorem State.store_phase (s : State) (t : Tag) (phase : Bool) (r : Reply) :
    (s.store t phase r).phase = s.phase := by rw [State.store_eq]
@[simp] theorem State.store_lreq (s : State) (t : Tag) (phase : Bool) (r : Reply) :
    (s.store t phase r).lreq = s.lreq := by rw [State.store_eq]
@[simp] theorem State.store_rate (s : State) (t : Tag) (phase : Bool) (r : Reply) :
    (s.store t phase r).rate = s.rate := by rw [State.store_eq]
@[simp] theorem State.store_now (s : State) (t : Tag) (phase : Bool) (r : Reply) :
    (s.store t phase r).now = s.now := by rw [State.store_eq]
@[simp] theorem State.store_windows (s : State) (t : Tag) (phase : Bool) (r : Reply) :
    (s.store t phase r).windows = s.windows := by rw [State.store_eq]
@[simp] theorem State.store_bus (s : State) (t : Tag) (phase : Bool) (r : Reply) :
    (s.store t phase r).bus = s.bus := by rw [State.store_eq]
@[simp] theorem State.store_queue (s : State) (t : Tag) (phase : Bool) (r : Reply) :
    (s.store t phase r).queue = s.queue := by rw [State.store_eq]
@[simp] theorem State.store_linkGrants (s : State) (t : Tag) (phase : Bool) (r : Reply) :
    (s.store t phase r).linkGrants = s.linkGrants := by rw [State.store_eq]
@[simp] theorem State.store_watch (s : State) (t : Tag) (phase : Bool) (r : Reply) :
    (s.store t phase r).watch = s.watch := by rw [State.store_eq]
@[simp] theorem State.store_pollQueue (s : State) (t : Tag) (phase : Bool) (r : Reply) :
    (s.store t phase r).pollQueue = s.pollQueue := by rw [State.store_eq]
@[simp] theorem State.store_pollTimer (s : State) (t : Tag) (phase : Bool) (r : Reply) :
    (s.store t phase r).pollTimer = s.pollTimer := by rw [State.store_eq]
@[simp] theorem State.store_stats (s : State) (t : Tag) (phase : Bool) (r : Reply) :
    (s.store t phase r).stats = s.stats := by rw [State.store_eq]
@[simp] theorem State.store_intervalNumber (s : State) (t : Tag) (phase : Bool) (r : Reply) :
    (s.store t phase r).intervalNumber = s.intervalNumber := by rw [State.store_eq]
@[simp] theorem State.store_intervalTimer (s : State) (t : Tag) (phase : Bool) (r : Reply) :
    (s.store t phase r).intervalTimer = s.intervalTimer := by rw [State.store_eq]
@[simp] theorem State.store_notices (s : State) (t : Tag) (phase : Bool) (r : Reply) :
    (s.store t phase r).notices = s.notices := by rw [State.store_eq]
@[simp] theorem State.store_timing (s : State) (t : Tag) (phase : Bool) (r : Reply) :
    (s.store t phase r).timing = s.timing := by rw [State.store_eq]
@[simp] theorem State.store_rx (s : State) (t : Tag) (phase : Bool) (r : Reply) :
    (s.store t phase r).rx = s.rx := by rw [State.store_eq]
@[simp] theorem State.store_tx (s : State) (t : Tag) (phase : Bool) (r : Reply) :
    (s.store t phase r).tx = s.tx := by rw [State.store_eq]
@[simp] theorem State.store_freeCount (s : State) (t : Tag) (phase : Bool) (r : Reply) :
    (s.store t phase r).freeCount = s.freeCount := by rw [State.store_eq]
@[simp] theorem State.store_pending (s : State) (t : Tag) (phase : Bool) (r : Reply) :
    (s.store t phase r).pending = s.pending := by rw [State.store_eq]

@[simp] theorem State.store_tagOf (s : State) (t u : Tag) (phase : Bool) (r : Reply) :
    (s.store t phase r).tagOf u = if t = u then .done phase r else s.tagOf u := by
  simp [State.store]

@[simp] theorem State.list_offWire (s : State) (t : Tag) : (s.list t).offWire = s.offWire := by
  unfold State.list; split <;> rfl

/-- Off the wire a stored reply is its tag's entry and no more. -/
theorem State.store_offWire (s : State) (t : Tag) (phase : Bool) (r : Reply) :
    (s.store t phase r).offWire = (s.setTag t (.done phase r)).offWire := by
  simp [State.store]

/-- Off the wire an immediate answer is nothing. -/
@[simp] theorem State.answer_offWire (s : State) (kind tagByte : Byte) (status : Status) (contents : List Byte) :
    (s.answer kind tagByte status contents).offWire = s.offWire := by
  unfold State.answer State.pushImmediate State.offWire
  split <;> rfl

/-! ## Completion of queue entries (R64, R65) -/

theorem State.complete_eq (s : State) (e : LinkEntry) (status : Status) :
    s.complete e status =
      { s with queue := s.queue.filter (fun x => x.tag ≠ e.tag), tracker := (s.complete e status).tracker } := by
  unfold State.complete
  rw [State.store_eq]
  rfl

@[simp] theorem State.complete_queue (s : State) (e : LinkEntry) (status : Status) :
    (s.complete e status).queue = s.queue.filter (fun x => x.tag ≠ e.tag) := by
  rw [State.complete_eq]

@[simp] theorem State.complete_phase (s : State) (e : LinkEntry) (status : Status) :
    (s.complete e status).phase = s.phase := by rw [State.complete_eq]
@[simp] theorem State.complete_lreq (s : State) (e : LinkEntry) (status : Status) :
    (s.complete e status).lreq = s.lreq := by rw [State.complete_eq]
@[simp] theorem State.complete_rate (s : State) (e : LinkEntry) (status : Status) :
    (s.complete e status).rate = s.rate := by rw [State.complete_eq]
@[simp] theorem State.complete_now (s : State) (e : LinkEntry) (status : Status) :
    (s.complete e status).now = s.now := by rw [State.complete_eq]
@[simp] theorem State.complete_windows (s : State) (e : LinkEntry) (status : Status) :
    (s.complete e status).windows = s.windows := by rw [State.complete_eq]
@[simp] theorem State.complete_bus (s : State) (e : LinkEntry) (status : Status) :
    (s.complete e status).bus = s.bus := by rw [State.complete_eq]
@[simp] theorem State.complete_linkGrants (s : State) (e : LinkEntry) (status : Status) :
    (s.complete e status).linkGrants = s.linkGrants := by rw [State.complete_eq]
@[simp] theorem State.complete_watch (s : State) (e : LinkEntry) (status : Status) :
    (s.complete e status).watch = s.watch := by rw [State.complete_eq]
@[simp] theorem State.complete_pollQueue (s : State) (e : LinkEntry) (status : Status) :
    (s.complete e status).pollQueue = s.pollQueue := by rw [State.complete_eq]
@[simp] theorem State.complete_pollTimer (s : State) (e : LinkEntry) (status : Status) :
    (s.complete e status).pollTimer = s.pollTimer := by rw [State.complete_eq]
@[simp] theorem State.complete_stats (s : State) (e : LinkEntry) (status : Status) :
    (s.complete e status).stats = s.stats := by rw [State.complete_eq]
@[simp] theorem State.complete_intervalNumber (s : State) (e : LinkEntry) (status : Status) :
    (s.complete e status).intervalNumber = s.intervalNumber := by rw [State.complete_eq]
@[simp] theorem State.complete_intervalTimer (s : State) (e : LinkEntry) (status : Status) :
    (s.complete e status).intervalTimer = s.intervalTimer := by rw [State.complete_eq]
@[simp] theorem State.complete_notices (s : State) (e : LinkEntry) (status : Status) :
    (s.complete e status).notices = s.notices := by rw [State.complete_eq]
@[simp] theorem State.complete_timing (s : State) (e : LinkEntry) (status : Status) :
    (s.complete e status).timing = s.timing := by rw [State.complete_eq]
@[simp] theorem State.complete_rx (s : State) (e : LinkEntry) (status : Status) :
    (s.complete e status).rx = s.rx := by rw [State.complete_eq]
@[simp] theorem State.complete_tx (s : State) (e : LinkEntry) (status : Status) :
    (s.complete e status).tx = s.tx := by rw [State.complete_eq]
@[simp] theorem State.complete_freeCount (s : State) (e : LinkEntry) (status : Status) :
    (s.complete e status).freeCount = s.freeCount := by rw [State.complete_eq]
@[simp] theorem State.complete_pending (s : State) (e : LinkEntry) (status : Status) :
    (s.complete e status).pending = s.pending := by rw [State.complete_eq]

@[simp] theorem State.complete_tagOf (s : State) (e : LinkEntry) (status : Status) (u : Tag) :
    (s.complete e status).tagOf u = if e.tag = u then .done e.phase (e.reply status) else s.tagOf u := by
  simp only [State.complete, State.store_tagOf]
  rfl

/-- A completed entry has left the queue, whatever else was queued (R65). -/
theorem State.complete_entryOf_self (s : State) (e : LinkEntry) (status : Status) :
    (s.complete e status).entryOf e.tag = none := by
  simp [State.entryOf]

/-- The other tags' entries stay. -/
theorem State.complete_entryOf_ne (s : State) (e : LinkEntry) (status : Status) {u : Tag} (h : u ≠ e.tag) :
    (s.complete e status).entryOf u = s.entryOf u := by
  simp only [State.entryOf, State.complete_queue, List.find?_filter]
  congr 1
  funext x
  by_cases hx : x.tag = u <;> simp [hx, h]

/-- Several completions write the queue and the tracker only. -/
theorem State.completeAll_eq (s : State) (es : List LinkEntry) (status : Status) :
    s.completeAll es status =
      { s with queue := s.queue.filter (fun x => es.all fun e => x.tag ≠ e.tag),
               tracker := (s.completeAll es status).tracker } := by
  unfold State.completeAll
  induction es generalizing s with
  | nil => simp only [List.foldl_nil, List.all_nil, List.filter_true]
  | cons e es ih =>
    rw [List.foldl_cons, ih (s.complete e status)]
    simp [List.filter_filter, Bool.and_comm]

@[simp] theorem State.completeAll_queue (s : State) (es : List LinkEntry) (status : Status) :
    (s.completeAll es status).queue = s.queue.filter (fun x => es.all fun e => x.tag ≠ e.tag) := by
  rw [State.completeAll_eq]

@[simp] theorem State.completeAll_phase (s : State) (es : List LinkEntry) (status : Status) :
    (s.completeAll es status).phase = s.phase := by rw [State.completeAll_eq]
@[simp] theorem State.completeAll_lreq (s : State) (es : List LinkEntry) (status : Status) :
    (s.completeAll es status).lreq = s.lreq := by rw [State.completeAll_eq]
@[simp] theorem State.completeAll_rate (s : State) (es : List LinkEntry) (status : Status) :
    (s.completeAll es status).rate = s.rate := by rw [State.completeAll_eq]
@[simp] theorem State.completeAll_now (s : State) (es : List LinkEntry) (status : Status) :
    (s.completeAll es status).now = s.now := by rw [State.completeAll_eq]
@[simp] theorem State.completeAll_windows (s : State) (es : List LinkEntry) (status : Status) :
    (s.completeAll es status).windows = s.windows := by rw [State.completeAll_eq]
@[simp] theorem State.completeAll_bus (s : State) (es : List LinkEntry) (status : Status) :
    (s.completeAll es status).bus = s.bus := by rw [State.completeAll_eq]
@[simp] theorem State.completeAll_linkGrants (s : State) (es : List LinkEntry) (status : Status) :
    (s.completeAll es status).linkGrants = s.linkGrants := by rw [State.completeAll_eq]
@[simp] theorem State.completeAll_watch (s : State) (es : List LinkEntry) (status : Status) :
    (s.completeAll es status).watch = s.watch := by rw [State.completeAll_eq]
@[simp] theorem State.completeAll_pollQueue (s : State) (es : List LinkEntry) (status : Status) :
    (s.completeAll es status).pollQueue = s.pollQueue := by rw [State.completeAll_eq]
@[simp] theorem State.completeAll_pollTimer (s : State) (es : List LinkEntry) (status : Status) :
    (s.completeAll es status).pollTimer = s.pollTimer := by rw [State.completeAll_eq]
@[simp] theorem State.completeAll_stats (s : State) (es : List LinkEntry) (status : Status) :
    (s.completeAll es status).stats = s.stats := by rw [State.completeAll_eq]
@[simp] theorem State.completeAll_intervalNumber (s : State) (es : List LinkEntry) (status : Status) :
    (s.completeAll es status).intervalNumber = s.intervalNumber := by rw [State.completeAll_eq]
@[simp] theorem State.completeAll_intervalTimer (s : State) (es : List LinkEntry) (status : Status) :
    (s.completeAll es status).intervalTimer = s.intervalTimer := by rw [State.completeAll_eq]
@[simp] theorem State.completeAll_notices (s : State) (es : List LinkEntry) (status : Status) :
    (s.completeAll es status).notices = s.notices := by rw [State.completeAll_eq]
@[simp] theorem State.completeAll_timing (s : State) (es : List LinkEntry) (status : Status) :
    (s.completeAll es status).timing = s.timing := by rw [State.completeAll_eq]
@[simp] theorem State.completeAll_rx (s : State) (es : List LinkEntry) (status : Status) :
    (s.completeAll es status).rx = s.rx := by rw [State.completeAll_eq]
@[simp] theorem State.completeAll_tx (s : State) (es : List LinkEntry) (status : Status) :
    (s.completeAll es status).tx = s.tx := by rw [State.completeAll_eq]
@[simp] theorem State.completeAll_freeCount (s : State) (es : List LinkEntry) (status : Status) :
    (s.completeAll es status).freeCount = s.freeCount := by rw [State.completeAll_eq]
@[simp] theorem State.completeAll_pending (s : State) (es : List LinkEntry) (status : Status) :
    (s.completeAll es status).pending = s.pending := by rw [State.completeAll_eq]

/-- A tag whose entry is not among the completed ones is untouched. -/
theorem State.completeAll_tagOf_of_not_mem (s : State) (es : List LinkEntry) (status : Status) (u : Tag)
    (h : ∀ e ∈ es, e.tag ≠ u) : (s.completeAll es status).tagOf u = s.tagOf u := by
  unfold State.completeAll
  induction es generalizing s with
  | nil => rfl
  | cons e es ih =>
    rw [List.foldl_cons, ih _ (fun x hx => h x (List.mem_cons_of_mem _ hx)), State.complete_tagOf,
      if_neg (h e List.mem_cons_self)]

/-! ## Flush and health (R64, R85 to R90) -/

/-- After the flush of a window no entry it takes is queued (R64). -/
theorem State.flush_queue (s : State) (w : WinId) {e : LinkEntry} (h : e ∈ (s.flush w).queue) :
    e ∈ s.queue ∧ e.flushedBy w = false := by
  simp only [State.flush, State.completeAll_queue, List.mem_filter, List.all_eq_true, List.mem_filter, and_imp,
    decide_eq_true_eq] at h
  refine ⟨h.1, ?_⟩
  by_contra hne
  exact h.2 e h.1 (by simpa using hne) rfl

theorem State.flush_eq (s : State) (w : WinId) :
    s.flush w = { s with queue := (s.flush w).queue, tracker := (s.flush w).tracker } := by
  unfold State.flush
  rw [State.completeAll_eq]

/-- One health input writes the window's health, its statistics, the queue and the tracker only (R86, R87, R90). -/
theorem State.judge_eq (s : State) (w : WinId) (input : HealthInput) :
    (s.judge w input).1 =
      { s with windows := (s.judge w input).1.windows, stats := (s.judge w input).1.stats,
               queue := (s.judge w input).1.queue, tracker := (s.judge w input).1.tracker } := by
  unfold State.judge
  dsimp only
  split
  · rfl
  · dsimp only
    rw [State.flush_eq]
    rfl
  · rfl

@[simp] theorem State.judge_phase (s : State) (w : WinId) (input : HealthInput) :
    (s.judge w input).1.phase = s.phase := by rw [State.judge_eq]
@[simp] theorem State.judge_lreq (s : State) (w : WinId) (input : HealthInput) :
    (s.judge w input).1.lreq = s.lreq := by rw [State.judge_eq]
@[simp] theorem State.judge_rate (s : State) (w : WinId) (input : HealthInput) :
    (s.judge w input).1.rate = s.rate := by rw [State.judge_eq]
@[simp] theorem State.judge_now (s : State) (w : WinId) (input : HealthInput) :
    (s.judge w input).1.now = s.now := by rw [State.judge_eq]
@[simp] theorem State.judge_bus (s : State) (w : WinId) (input : HealthInput) :
    (s.judge w input).1.bus = s.bus := by rw [State.judge_eq]
@[simp] theorem State.judge_linkGrants (s : State) (w : WinId) (input : HealthInput) :
    (s.judge w input).1.linkGrants = s.linkGrants := by rw [State.judge_eq]
@[simp] theorem State.judge_watch (s : State) (w : WinId) (input : HealthInput) :
    (s.judge w input).1.watch = s.watch := by rw [State.judge_eq]
@[simp] theorem State.judge_pollQueue (s : State) (w : WinId) (input : HealthInput) :
    (s.judge w input).1.pollQueue = s.pollQueue := by rw [State.judge_eq]
@[simp] theorem State.judge_pollTimer (s : State) (w : WinId) (input : HealthInput) :
    (s.judge w input).1.pollTimer = s.pollTimer := by rw [State.judge_eq]
@[simp] theorem State.judge_intervalNumber (s : State) (w : WinId) (input : HealthInput) :
    (s.judge w input).1.intervalNumber = s.intervalNumber := by rw [State.judge_eq]
@[simp] theorem State.judge_intervalTimer (s : State) (w : WinId) (input : HealthInput) :
    (s.judge w input).1.intervalTimer = s.intervalTimer := by rw [State.judge_eq]
@[simp] theorem State.judge_notices (s : State) (w : WinId) (input : HealthInput) :
    (s.judge w input).1.notices = s.notices := by rw [State.judge_eq]
@[simp] theorem State.judge_timing (s : State) (w : WinId) (input : HealthInput) :
    (s.judge w input).1.timing = s.timing := by rw [State.judge_eq]
@[simp] theorem State.judge_rx (s : State) (w : WinId) (input : HealthInput) :
    (s.judge w input).1.rx = s.rx := by rw [State.judge_eq]
@[simp] theorem State.judge_tx (s : State) (w : WinId) (input : HealthInput) :
    (s.judge w input).1.tx = s.tx := by rw [State.judge_eq]
@[simp] theorem State.judge_freeCount (s : State) (w : WinId) (input : HealthInput) :
    (s.judge w input).1.freeCount = s.freeCount := by rw [State.judge_eq]
@[simp] theorem State.judge_pending (s : State) (w : WinId) (input : HealthInput) :
    (s.judge w input).1.pending = s.pending := by rw [State.judge_eq]

/-- The health of the window after an input is the health machine's, its other fields stay (R86). -/
theorem State.judge_window (s : State) (w v : WinId) (input : HealthInput) :
    (s.judge w input).1.window v =
      if w = v then
        { s.window w with
          health := ((s.window w).health.take (s.window w).fields.declareCount
            (s.window w).fields.clearCount input).1 }
      else s.window v := by
  unfold State.judge
  dsimp only
  split
  · simp
  · rw [State.flush_eq]
    exact State.window_setWindow s w v _
  · simp

/-- A deferral is no input that moves the health machine (R85, R86). -/
theorem State.judge_neutral (s : State) (w : WinId) : s.judge w .neutral = (s, []) := by
  have hset : s.setWindow w (s.window w) = s := by
    have : s.windows.set w (s.window w) = s.windows := by
      simp [State.window]
    simp [State.setWindow, this]
  unfold State.judge
  cases h : s.window w
  simp only [Health.take]
  rw [← h, hset]

/-! ## Commands and the wire (R152, R153, R168) -/

/-- Whether anything waits for the transmitter is read from the transmitter, the tracker and the notice unit. -/
theorem State.settled_congr {s t : State} (htx : t.tx = s.tx) (htracker : t.tracker = s.tracker)
    (hnotices : t.notices = s.notices) : t.settled ↔ s.settled := by
  simp only [State.settled, State.outgoingReply, State.tagOf, htx, htracker, hnotices]

/-- A command that touches neither the transmitter nor its sources: the choice is made before it and none after it. -/
theorem State.event_of_quiet {s : State} (h : s.phase = .running) {f : State → State}
    (htx : (f s.transmit).tx = s.transmit.tx) (htracker : (f s.transmit).tracker = s.transmit.tracker)
    (hnotices : (f s.transmit).notices = s.transmit.notices) : s.event f = f s.transmit := by
  rw [State.event_running h]
  exact State.transmit_of_settled ((State.settled_congr htx htracker hnotices).mpr s.transmit_settled)

/-- A FREE transmitter that has made its choice has no immediate reply waiting. -/
theorem State.transmit_immediate {s : State} (h : s.transmit.tx.frame = none) : s.transmit.tracker.immediate = [] := by
  rcases s.transmit_settled with hs | hs
  · simp [h] at hs
  · exact hs.1

/-- An immediate answer placed on the lists as the choice before has left them is given (R152, R168). -/
theorem State.answered_of_answer {s x : State} (htx : x.tx = s.transmit.tx)
    (himm : x.tracker.immediate = s.transmit.tracker.immediate)
    (hdrops : x.tracker.drops = s.transmit.tracker.drops) (kind tagByte : Byte) (status : Status)
    (contents : List Byte) :
    s.answered (x.answer kind tagByte status contents).transmit
      { kind := replyKind kind, tagByte := tagByte, body := status.code :: contents } := by
  unfold State.answered
  dsimp only
  by_cases hframe : s.transmit.tx.frame.isSome = true
  · have hsend : (x.answer kind tagByte status contents).tx.frame.isSome = true := by simpa [htx] using hframe
    rw [if_pos hframe, State.transmit_of_sending hsend, ← himm, ← hdrops]
    refine ⟨by simpa using htx, ?_⟩
    unfold State.answer State.pushImmediate
    dsimp only
    split
    · exact ⟨rfl, rfl⟩
    · exact ⟨rfl, rfl⟩
  · have hnone : s.transmit.tracker.immediate = [] := State.transmit_immediate (by simpa using hframe)
    have hfree : (x.answer kind tagByte status contents).tx.frame = none := by simpa [htx] using hframe
    have hlist : (x.answer kind tagByte status contents).tracker.immediate =
        [{ kind := replyKind kind, tagByte := tagByte, body := status.code :: contents }] := by
      simp [State.answer, State.pushImmediate, himm, hnone, Config.immediateCapacity]
    rw [if_neg hframe, State.transmit_of_immediate hfree hlist]
    refine ⟨rfl, rfl, ?_⟩
    simp [State.takeImmediate, State.answer, State.pushImmediate, himm, hnone, Config.immediateCapacity, hdrops]

/-- Before the choice that follows: the reply is stored under its tag, and the tag is listed (R149, R150, R153). -/
def State.hasListed (x : State) (t : Tag) (phase : Bool) (r : Reply) : Prop :=
  x.tagOf t = .done phase r ∧ t ∈ x.tracker.outgoing

theorem State.hasListed_congr {x y : State} (h : y.tracker = x.tracker) {t : Tag} {phase : Bool} {r : Reply} :
    y.hasListed t phase r ↔ x.hasListed t phase r := by
  rw [State.hasListed, State.hasListed, State.tagOf_congr (congrArg Tracker.tags h), h]

theorem State.store_hasListed (x : State) (t : Tag) (phase : Bool) (r : Reply) :
    (x.store t phase r).hasListed t phase r := ⟨by simp, State.mem_list _ t⟩

theorem State.complete_hasListed (x : State) (e : LinkEntry) (status : Status) :
    (x.complete e status).hasListed e.tag e.phase (e.reply status) := State.store_hasListed _ _ _ _

/-- A listed reply stays so when another tag's entry completes. -/
theorem State.hasListed.complete {x : State} {t : Tag} {phase : Bool} {r : Reply} (h : x.hasListed t phase r)
    {e : LinkEntry} (hne : e.tag ≠ t) (status : Status) : (x.complete e status).hasListed t phase r := by
  refine ⟨by rw [State.complete_tagOf, if_neg hne, h.1], ?_⟩
  unfold State.complete State.store State.list
  split
  · exact h.2
  · exact List.mem_append_left _ h.2

theorem State.hasListed.completeAll {x : State} {t : Tag} {phase : Bool} {r : Reply} (h : x.hasListed t phase r)
    {es : List LinkEntry} (hne : ∀ e ∈ es, e.tag ≠ t) (status : Status) :
    (x.completeAll es status).hasListed t phase r := by
  unfold State.completeAll
  induction es generalizing x with
  | nil => exact h
  | cons e es ih =>
    exact ih (h.complete (hne e List.mem_cons_self) status) fun y hy => hne y (List.mem_cons_of_mem e hy)

/-- A listed reply is listed still after the choice that follows, or the choice has taken it (R153, R168). -/
theorem State.hasListed.transmit {x : State} {t : Tag} {phase : Bool} {r : Reply} (h : x.hasListed t phase r) :
    x.transmit.hasStored t phase r := by
  obtain ⟨htag, hmem⟩ := h
  refine ⟨by simpa using htag, ?_⟩
  refine State.transmit_cases x (P := fun u => t ∈ u.tracker.outgoing ∨ u.sending r) (Or.inl hmem)
    (fun _ _ _ _ => Or.inl hmem) ?_ (fun _ _ _ _ => Or.inl hmem)
  intro q _ _ hout
  cases hlist : x.tracker.outgoing with
  | nil => rw [hlist] at hmem; exact absurd hmem (by simp)
  | cons head tail =>
    by_cases heq : head = t
    · right
      simp only [State.outgoingReply, hlist, heq, htag, Option.some.injEq] at hout
      rw [← hout]
      rfl
    · left
      rw [hlist] at hmem
      have : t ∈ tail := by
        rcases List.mem_cons.mp hmem with h | h
        · exact absurd h.symm heq
        · exact h
      simpa [State.takeReply, State.send, hlist] using this

/-- A reply in transmission has no timer to wait for. -/
theorem State.sending.deferTimer {x : State} {r : Reply} (h : x.sending r) : x.deferTimer.sending r := by
  unfold State.sending at h ⊢
  simp [State.deferTimer, h]

/-- A listed reply is listed or on TXD after the choice that follows an entry, as after any choice. -/
theorem State.hasListed.chooseAfterEntry {b x : State} {t : Tag} {phase : Bool} {r : Reply}
    (h : x.hasListed t phase r) : (b.chooseAfterEntry x).hasStored t phase r :=
  State.chooseAfterEntry_ind (P := fun y => y.hasStored t phase r) h.transmit fun hstored =>
    ⟨hstored.1, hstored.2.imp id State.sending.deferTimer⟩

theorem State.store_transmit_hasStored (x : State) (t : Tag) (phase : Bool) (r : Reply) :
    (x.store t phase r).transmit.hasStored t phase r := (x.store_hasListed t phase r).transmit

/-- The same for the completion of an entry (R65). -/
theorem State.complete_transmit_hasStored (x : State) (e : LinkEntry) (status : Status) :
    (x.complete e status).transmit.hasStored e.tag e.phase (e.reply status) := (x.complete_hasListed e status).transmit

/-! ## The DEAF exit (R137) beside the transmitter's choice -/

@[simp] theorem State.hear_tagOf (s : State) (t : Tag) : s.hear.tagOf t = s.tagOf t := rfl
@[simp] theorem State.hear_window (s : State) (w : WinId) : s.hear.window w = s.window w := rfl
@[simp] theorem State.hear_statsOf (s : State) (w : WinId) : s.hear.statsOf w = s.statsOf w := rfl
@[simp] theorem State.hear_watchOf (s : State) (id : WatchId) : s.hear.watchOf id = s.watchOf id := rfl
@[simp] theorem State.hear_entryOf (s : State) (t : Tag) : s.hear.entryOf t = s.entryOf t := rfl

/-- After the DEAF exit the unit is LIVE. -/
@[simp] theorem NoticeUnit.deafExit_link (u : NoticeUnit) : u.deafExit.link = .live := by
  unfold NoticeUnit.deafExit; split <;> simp_all

@[simp] theorem NoticeUnit.deafExit_queue (u : NoticeUnit) : u.deafExit.queue = u.queue := by
  unfold NoticeUnit.deafExit; split <;> rfl

@[simp] theorem NoticeUnit.deafExit_next (u : NoticeUnit) : u.deafExit.next = u.next := by
  unfold NoticeUnit.deafExit; split <;> rfl

@[simp] theorem NoticeUnit.deafExit_lost (u : NoticeUnit) : u.deafExit.lost = u.lost := by
  unfold NoticeUnit.deafExit; split <;> rfl

@[simp] theorem NoticeUnit.deafExit_resendTimer (u : NoticeUnit) : u.deafExit.resendTimer = u.resendTimer := by
  unfold NoticeUnit.deafExit; split <;> rfl

/-- The resend count is 0 after the exit from DEAF, else it stays. -/
@[simp] theorem State.transmit_deafExit_resendCount (s : State) :
    s.transmit.notices.deafExit.resendCount = s.notices.deafExit.resendCount := by
  simp only [NoticeUnit.deafExit, State.transmit_link]
  split <;> simp

@[simp] theorem State.transmit_hear_offWire (s : State) : s.transmit.hear.offWire = s.hear.offWire := by
  apply State.offWire_ext <;> simp

/-! ## What the blocks read is not changed by a choice -/

@[simp] theorem State.transmit_decode (s : State) (address : Nat) : s.transmit.decode address = s.decode address := by
  simp [State.decode]

@[simp] theorem State.transmit_watchWindow (s : State) (id : WatchId) :
    s.transmit.watchWindow id = s.watchWindow id := by
  simp [State.watchWindow]

@[simp] theorem State.transmit_workOf (s : State) (t : Turn) : s.transmit.workOf t = s.workOf t := by
  simp [State.workOf]

@[simp] theorem State.transmit_oldestOn (s : State) (w : WinId) : s.transmit.oldestOn w = s.oldestOn w := by
  simp [State.oldestOn]

@[simp] theorem State.transmit_blocked (s : State) (w : WinId) : s.transmit.blocked w = s.blocked w := by
  simp [State.blocked]

@[simp] theorem State.transmit_barrierOn (s : State) (w : WinId) : s.transmit.barrierOn w = s.barrierOn w := by
  simp [State.barrierOn]

@[simp] theorem State.transmit_inUse (s : State) (w : WinId) : s.transmit.inUse w = s.inUse w := by
  simp [State.inUse]

@[simp] theorem State.transmit_busFree (s : State) : s.transmit.busFree = s.busFree := by
  simp [State.busFree]

@[simp] theorem State.transmit_linkCandidate (s : State) : s.transmit.linkCandidate = s.linkCandidate := by
  have h : s.transmit.eligibleLink = s.eligibleLink := by funext e; simp [State.eligibleLink]
  simp [State.linkCandidate, h]

@[simp] theorem State.transmit_pollCandidate (s : State) : s.transmit.pollCandidate = s.pollCandidate := by
  have h : s.transmit.eligiblePoll = s.eligiblePoll := by funext id; simp [State.eligiblePoll]
  simp [State.pollCandidate, h]

@[simp] theorem State.transmit_choose (s : State) : s.transmit.choose = s.choose := by
  simp [State.choose]

@[simp] theorem State.transmit_recheck (s : State) (e : LinkEntry) : s.transmit.recheck e = s.recheck e := by
  simp [State.recheck]

@[simp] theorem State.transmit_readyRequest (s : State) (w : WinId) :
    s.transmit.readyRequest w = s.readyRequest w := by
  simp [State.readyRequest]

@[simp] theorem State.transmit_watchersOf (s : State) (w : WinId) : s.transmit.watchersOf w = s.watchersOf w := by
  simp [State.watchersOf]

@[simp] theorem State.transmit_overlapsOther (s : State) (w : WinId) (f : WindowFields) :
    s.transmit.overlapsOther w f = s.overlapsOther w f := by
  simp [State.overlapsOther]

@[simp] theorem State.transmit_windowCheck (s : State) (w : WinId) (r : LinkRequest) :
    s.transmit.windowCheck w r = s.windowCheck w r := by
  simp [State.windowCheck]

/-- The work of a turn is read from the queue and the watch list. -/
theorem State.workOf_congr {s t : State} (hqueue : t.queue = s.queue) (hwatch : t.watch = s.watch) (turn : Turn) :
    t.workOf turn = s.workOf turn := by
  simp only [State.workOf, State.entryOf_congr hqueue, State.watchOf_congr hwatch]

/-- The next access looks at the queue, the watch list, the bus and the windows. -/
theorem State.startNext_bus_congr {s t : State} (hqueue : t.queue = s.queue) (hwatch : t.watch = s.watch)
    (hbus : t.bus = s.bus) (hwindows : t.windows = s.windows) (turn : Turn) :
    (t.startNext turn).bus = (s.startNext turn).bus := by
  unfold State.startNext
  rw [State.workOf_congr hqueue hwatch]
  split
  · exact State.endTurn_bus_congr hbus
  · simp [State.startAccess, hbus, State.window, hwindows]

/-- So does the start of a turn. -/
theorem State.beginTurn_bus_congr {s t : State} (hqueue : t.queue = s.queue) (hwatch : t.watch = s.watch)
    (hbus : t.bus = s.bus) (hwindows : t.windows = s.windows) (turn : Turn) :
    (t.beginTurn turn).bus = (s.beginTurn turn).bus := by
  unfold State.beginTurn
  rw [hbus]
  split
  · exact State.startNext_bus_congr hqueue hwatch hbus hwindows turn
  · rw [State.window_congr hwindows]
    split
    · exact State.startNext_bus_congr hqueue hwatch hbus hwindows turn
    · rfl

end Sys2Proof.Machine
end

