-- ==== Sys2Proof/Laws/Exec.lean ====
section
/-! SUPPORT. What each command answers while the part runs: the choice that was open, the command's own effect, the
choice that follows. Later proofs start from these equations. -/

namespace Sys2Proof.Machine

theorem exec_receiverStart {s : State} (h : s.phase = .running) :
    exec .receiverStart s = .next (s.transmit.receiverStart).transmit := by
  simp only [exec, execReceiverStart, State.event_running h]

theorem exec_gapTimerExpiry {s : State} (h : s.phase = .running) :
    exec .gapTimerExpiry s = .next (s.transmit.gapExpiry).transmit := by
  simp only [exec, execGapTimerExpiry, State.event_running h]

theorem exec_frameEnd {s : State} (h : s.phase = .running) :
    exec .frameEnd s = .next (s.transmit.frameEnd).transmit := by
  simp only [exec, execFrameEnd, State.event_running h]

theorem exec_rxdHighAfterBreak {s : State} (h : s.phase = .running) :
    exec .rxdHighAfterBreak s = .next (s.transmit.highAfterBreak).transmit := by
  simp only [exec, execRxdHighAfterBreak, State.event_running h]

theorem exec_grant {s : State} (h : s.phase = .running) :
    exec .grant s = .next (s.transmit.grant).transmit := by
  simp only [exec, execGrant, State.event_running h]

theorem exec_accessEnd {s : State} (h : s.phase = .running) (ready : List Bool) (deferred : Bool) (lines : BusData) :
    exec (.accessEnd ready deferred lines) s = 
      .next (s.transmit.chooseAfterEntry (s.transmit.accessEnd ready deferred lines)) := by
  simp only [exec, execAccessEnd, State.entryEvent_running h]

theorem exec_gapEnd {s : State} (h : s.phase = .running) :
    exec .gapEnd s = .next (s.transmit.gapEnd).transmit := by
  simp only [exec, execGapEnd, State.event_running h]

theorem exec_retryWaitEnd {s : State} (h : s.phase = .running) :
    exec .retryWaitEnd s = .next (s.transmit.retryWaitEnd).transmit := by
  simp only [exec, execRetryWaitEnd, State.event_running h]

theorem exec_backoffEnd {s : State} (h : s.phase = .running) (tag : Tag) :
    exec (.backoffEnd tag) s = .next (s.transmit.backoffEnd tag).transmit := by
  simp only [exec, execBackoffEnd, State.event_running h]

theorem exec_deadline {s : State} (h : s.phase = .running) (tag : Tag) :
    exec (.deadline tag) s = .next (s.transmit.deadlinePasses tag).transmit := by
  simp only [exec, execDeadline, State.event_running h]

theorem exec_windowRequestTakesEffect {s : State} (h : s.phase = .running) (w : WinId) :
    exec (.windowRequestTakesEffect w) s = .next (s.transmit.takesEffect w).transmit := by
  simp only [exec, execWindowRequestTakesEffect, State.event_running h]

theorem exec_lendTaken {s : State} (h : s.phase = .running) :
    exec .lendTaken s = .next (s.transmit.lendTaken).transmit := by
  simp only [exec, execLendTaken, State.event_running h]

theorem exec_reclaimEnd {s : State} (h : s.phase = .running) :
    exec .reclaimEnd s = .next (s.transmit.reclaimEnd).transmit := by
  simp only [exec, execReclaimEnd, State.event_running h]

theorem exec_pollTick {s : State} (h : s.phase = .running) :
    exec .pollTick s = .next (s.transmit.pollTick).transmit := by
  simp only [exec, execPollTick, State.event_running h]

theorem exec_intervalEnd {s : State} (h : s.phase = .running) :
    exec .intervalEnd s = .next (s.transmit.chooseAfterEntry s.transmit.intervalEnd) := by
  simp only [exec, execIntervalEnd, State.entryEvent_running h]

theorem exec_resendTimerExpiry {s : State} (h : s.phase = .running) :
    exec .resendTimerExpiry s = .next (s.transmit.resendExpiry).transmit := by
  simp only [exec, execResendTimerExpiry, State.event_running h]

theorem exec_lreqnAsserted {s : State} (h : s.phase = .running) :
    exec .lreqnAsserted s = .next ({ s with lreq := true }.transmit.lreqAsserted).transmit := by
  have h' : ({ s with lreq := true } : State).phase = .running := h
  simp only [exec, execLreqnAsserted, State.event_running h']

theorem exec_lreqnWithdrawn {s : State} (h : s.phase = .running) :
    exec .lreqnWithdrawn s = .next ({ s with lreq := false }.transmit.lreqWithdrawn).transmit := by
  have h' : ({ s with lreq := false } : State).phase = .running := h
  simp only [exec, execLreqnWithdrawn, State.event_running h']

/-- Every kind is read back from its KIND byte (R170). -/
@[simp] theorem Kind.ofByte?_code (k : Kind) : Kind.ofByte? k.code = some k := by
  cases k <;> decide

/-- A KIND byte is listed exactly when it is a kind's (R144, R170). -/
theorem Kind.ofByte?_eq_none {b : Byte} (h : requestKindCodes.contains b = false) : Kind.ofByte? b = none := by
  cases hk : Kind.ofByte? b with
  | none => rfl
  | some k =>
    have hcode : k.code = b := by simpa using List.find?_some hk
    subst hcode
    revert h
    cases k <;> decide

/-! ## Arrivals -/

/-- The command of a kind is the arrival of its frame (R144). -/
theorem exec_command {s : State} (h : s.phase = .running) (k : Kind) (tagByte : Byte) (body : List Byte) :
    exec (k.command tagByte body) s =
      .next (s.transmit.arrive k.code tagByte body).transmit := by
  cases k <;>
    simp only [Kind.command, exec, execRead, execWrite, execSequence, execWindowSet, execWindowClose, execWindowQuery,
      execWatchSet, execWatchDrop, execWatchQuery, execCountersRead, execCountersClear, execHistoryRead, execTimingSet,
      execStatus, execIdentify, execNoticeAck, execAbort, execRestart, State.arrival, State.event_running h]

theorem exec_unknownKind {s : State} (h : s.phase = .running) (kind tagByte : Byte) (body : List Byte) :
    exec (.unknownKind kind tagByte body) s =
      .next (s.transmit.arrive kind tagByte body).transmit := by
  simp only [exec, execUnknownKind, State.arrival, State.event_running h]

theorem exec_byteArrival {s : State} (h : s.phase = .running) (data : Byte) (stopHigh : Bool) :
    exec (.byteArrival data stopHigh) s =
      .next (s.transmit.byteArrival data stopHigh).transmit := by
  simp only [exec, execByteArrival, State.event_running h]

/-- A tagged kind's frame under a new tag is taken as new, its tag EMPTY and unlisted (R145). -/
theorem State.tagged_of_new {s : State} {tagByte : Byte} {tag : Tag} (h : s.isNew tagByte tag) (kind : Kind)
    (new : Tag → State → State) :
    s.tagged kind tagByte new = new tag s ∨ s.tagged kind tagByte new = new tag (s.clearTag tag) := by
  obtain ⟨htag, hempty | ⟨r, hdone⟩⟩ := h
  · left; simp [State.tagged, htag, hempty]
  · right; simp [State.tagged, htag, hdone]

/-- Whether a request is new is not changed by a choice or by the DEAF exit. -/
theorem State.isNew_hear_transmit {s : State} {tagByte : Byte} {tag : Tag} (h : s.isNew tagByte tag) :
    s.transmit.hear.isNew tagByte tag := by
  have heq : s.transmit.hear.tagOf tag = s.tagOf tag := State.tagOf_congr (by simp) tag
  exact ⟨h.1, by rw [heq]; exact h.2⟩

/-! ## Answers and refusals -/

/-- An immediate answer that goes with no other effect than `x` has: off the wire it is `x`, on the wire it is given. -/
theorem State.answer_given {s x : State} (htx : x.tx = s.transmit.tx)
    (htracker : x.tracker = s.transmit.tracker) (kind tagByte : Byte) (status : Status) (contents : List Byte) :
    (x.answer kind tagByte status contents).transmit.offWire = x.offWire ∧
      s.answered (x.answer kind tagByte status contents).transmit
        { kind := replyKind kind, tagByte := tagByte, body := status.code :: contents } :=
  ⟨by simp, State.answered_of_answer htx (by rw [htracker]) (by rw [htracker]) ..⟩

/-- A stored reply that is listed again is listed, or the choice that follows has taken it (R145, R168). -/
theorem State.list_transmit_hasStored {x : State} {t : Tag} {phase : Bool} {r : Reply}
    (h : x.tagOf t = .done phase r) : (x.list t).transmit.hasStored t phase r :=
  State.hasListed.transmit ⟨by simpa using h, State.mem_list x t⟩

/-- A frame of a tagged kind goes to the tag table (R144, R145). -/
theorem State.take_of_tagged {k : Kind} (hk : k.isTagged = true) (s : State) (tagByte : Byte) (body : List Byte)
    (prior : LinkState) : ∃ new, s.take k.code tagByte body prior = s.tagged k tagByte new := by
  cases k <;> first | (simp [Kind.isTagged] at hk; done) | skip
  all_goals simp only [State.take, Kind.ofByte?_code]; exact ⟨_, rfl⟩

/-- A bus request's frame at the tracker (R68 to R70). -/
theorem State.take_of_bus {k : Kind} (hk : k = .read ∨ k = .write ∨ k = .sequence) (s : State) (tagByte : Byte)
    (body : List Byte) (prior : LinkState) :
    s.take k.code tagByte body prior = s.tagged k tagByte fun t s => s.newBus k t tagByte (k.busBody tagByte body) := by
  rcases hk with rfl | rfl | rfl <;> simp only [State.take, Kind.ofByte?_code] <;> rfl

/-- The state in which a new tagged request is judged: the choice and the DEAF exit are done, and a DONE tag of the
other phase has been cleared (R145, R166). -/
def State.judging (s x : State) (tag : Tag) : Prop := x = s.transmit.hear ∨ x = s.transmit.hear.clearTag tag

/-- A new tagged request is judged in such a state. -/
theorem exec_new {s : State} (h : s.phase = .running) {k : Kind} {tagByte : Byte} {tag : Tag} {body : List Byte}
    (hnew : s.isNew tagByte tag) {new : Tag → State → State}
    (htake : s.transmit.hear.take k.code tagByte body s.transmit.notices.link =
      s.transmit.hear.tagged k tagByte new) :
    ∃ x : State, exec (k.command tagByte body) s = .next (new tag x).transmit ∧ s.judging x tag := by
  rcases State.tagged_of_new (State.isNew_hear_transmit hnew) k new with h1 | h1
  · exact ⟨_, by rw [exec_command h, State.arrive, htake, h1], Or.inl rfl⟩
  · exact ⟨_, by rw [exec_command h, State.arrive, htake, h1], Or.inr rfl⟩

/-- What the judging reads is as it stood before the arrival. -/
theorem State.judging_fields {s x : State} {tag : Tag} (h : s.judging x tag) :
    x.windows = s.windows ∧ x.queue = s.queue ∧ x.timing = s.timing ∧ x.now = s.now ∧ x.watch = s.watch ∧
      x.stats = s.stats ∧ x.bus = s.bus ∧ x.pollQueue = s.pollQueue := by
  rcases h with rfl | rfl <;> simp

/-- Off the wire, with the tag written, the judging state is the state after the DEAF exit. -/
theorem State.judging_setTag_offWire {s x : State} {tag : Tag} (h : s.judging x tag) (e : TagEntry) :
    (x.setTag tag e).offWire = (s.hear.setTag tag e).offWire := by
  rcases h with rfl | rfl <;> apply State.offWire_ext <;> simp

/-- A refusal of a new request: its tag becomes DONE with it, and nothing else changes (R147). -/
theorem State.refuse_given {s x : State} {tag : Tag} (h : s.judging x tag) (k : Kind) (tagByte : Byte)
    (status : Status) :
    (x.refuse k tag tagByte status).transmit.offWire =
        (s.hear.setTag tag (.done (phaseOf tagByte)
          { kind := replyKind k.code, tagByte := tagByte, body := refusalBody k status })).offWire ∧
      (x.refuse k tag tagByte status).transmit.hasStored tag (phaseOf tagByte)
        { kind := replyKind k.code, tagByte := tagByte, body := refusalBody k status } := by
  refine ⟨?_, State.store_transmit_hasStored ..⟩
  rw [State.transmit_offWire, State.refuse, State.store_offWire, State.judging_setTag_offWire h]

/-- A new tagged request that is no bus request and whose meaning refuses it gets that answer alone (R146, R147). -/
theorem exec_new_refused {s : State} (h : s.phase = .running) {k : Kind} (hbus : k.isBus = false) {tagByte : Byte}
    {tag : Tag} {body : List Byte} (hnew : s.isNew tagByte tag) {new : Tag → State → State} {status : Status}
    (htake : s.transmit.hear.take k.code tagByte body s.transmit.notices.link =
      s.transmit.hear.tagged k tagByte new)
    (hrefuse : ∀ x : State, new tag x = x.refuse k tag tagByte status) :
    ∃ t, exec (k.command tagByte body) s = .next t ∧ s.refusedWith t tag tagByte (plainReply k tagByte status) := by
  obtain ⟨x, hexec, hx⟩ := exec_new h hnew htake
  have hgiven := State.refuse_given hx k tagByte status
  simp only [refusalBody, hbus, Bool.false_eq_true, if_false] at hgiven
  exact ⟨_, hexec, by rw [hrefuse]; exact hgiven⟩

/-- Acceptance of a new request (R44, R149). -/
theorem State.accept_given {s x : State} {tag : Tag} (h : s.judging x tag) (tagByte : Byte) (w : WinId)
    (r : LinkRequest) :
    (x.accept tag tagByte w r).transmit.offWire =
      ({ s.hear with queue := s.queue ++ [s.newEntry tag tagByte w r] }.setTag tag
        (.pending (phaseOf tagByte))).offWire := by
  have hfields := State.judging_fields h
  rw [State.transmit_offWire]
  rcases h with rfl | rfl <;> apply State.offWire_ext <;> simp_all [State.newEntry, State.newDeadline]

/-- The decode of an address looks at the windows only (R8). -/
theorem State.decode_congr {s t : State} (h : t.windows = s.windows) (address : Nat) :
    t.decode address = s.decode address := by
  simp [State.decode, State.window, h]

/-- The window of a request's first unit, likewise (R71). -/
theorem State.firstWindow_congr {s t : State} (h : t.windows = s.windows) (r : LinkRequest) :
    t.firstWindow r = s.firstWindow r := by
  unfold State.firstWindow
  split
  · rfl
  · exact State.decode_congr h _

end Sys2Proof.Machine
end

