-- ==== Sys2Proof/Laws/Access.lean ====
section
/-! SUPPORT. What the end of an access does, said once: to the holder, to the window's health and statistics, and to
everything else (R29, R53, R85, R106, R117). -/

namespace Sys2Proof.Machine

/-! ## Reading the tables after a count -/

@[simp] theorem State.window_countOutcome (s : State) (w v : WinId) (o : Outcome) :
    (s.countOutcome w o).window v = s.window v := rfl

@[simp] theorem State.window_countExhaustion (s : State) (w v : WinId) :
    (s.countExhaustion w).window v = s.window v := rfl

@[simp] theorem State.statsOf_countOutcome (s : State) (w v : WinId) (o : Outcome) :
    (s.countOutcome w o).statsOf v = if w = v then (s.statsOf w).countOutcome o else s.statsOf v := by
  simp [State.countOutcome]

@[simp] theorem State.statsOf_countExhaustion (s : State) (w v : WinId) :
    (s.countExhaustion w).statsOf v = if w = v then (s.statsOf w).countExhaustion else s.statsOf v := by
  simp [State.countExhaustion]

/-! ## The holder (R53, R54, R106) -/

/-- What a holder may write: the queue, the tracker, the watch list and the poll queue. -/
structure HolderFrame (s t : State) : Prop where
  phase : t.phase = s.phase
  lreq : t.lreq = s.lreq
  rate : t.rate = s.rate
  now : t.now = s.now
  windows : t.windows = s.windows
  bus : t.bus = s.bus
  linkGrants : t.linkGrants = s.linkGrants
  pollTimer : t.pollTimer = s.pollTimer
  stats : t.stats = s.stats
  intervalNumber : t.intervalNumber = s.intervalNumber
  intervalTimer : t.intervalTimer = s.intervalTimer
  notices : t.notices = s.notices
  timing : t.timing = s.timing
  rx : t.rx = s.rx
  tx : t.tx = s.tx
  pending : t.pending = s.pending

theorem State.holderTakes_frame (s : State) (t : Turn) (o : Outcome) (lines : BusData) :
    HolderFrame s (s.holderTakes t o lines).state := by
  unfold State.holderTakes
  split
  · split
    · constructor <;> simp
    · unfold State.linkTakes State.deferral State.unitDone State.stopWith
      split
      · constructor <;> simp
      · dsimp only
        repeat' split
        all_goals constructor <;> simp
      · dsimp only
        repeat' split
        all_goals constructor <;> simp
  · split
    · constructor <;> simp
    · unfold State.pollTakes State.pollEnds
      dsimp only
      repeat' split
      all_goals constructor <;> simp
  · constructor <;> simp

/-- Only a deferred access exhausts a request (R57). -/
theorem State.holderTakes_exhausted {s : State} {t : Turn} {o : Outcome} {lines : BusData}
    (h : (s.holderTakes t o lines).exhausted = true) : o = .defer := by
  revert h
  unfold State.holderTakes
  split
  · split
    · simp
    · unfold State.linkTakes State.deferral State.unitDone State.stopWith
      split
      · simp
      · simp
      · dsimp only
        repeat' split
        all_goals simp
  · split
    · simp
    · unfold State.pollTakes State.pollEnds
      dsimp only
      repeat' split
      all_goals simp
  · simp

/-! ## Health and statistics (R85 to R87, R117) -/

/-- A health input changes the statistics in failed-seen of its window only, which a declaration sets (R87). -/
theorem State.judge_statsOf (s : State) (w v : WinId) (input : HealthInput) :
    (s.judge w input).1.statsOf v =
      if w = v then
        { s.statsOf w with
          failedSeen := (s.statsOf w).failedSeen ||
            decide (((s.window w).health.take (s.window w).fields.declareCount
              (s.window w).fields.clearCount input).2 = .declared) }
      else s.statsOf v := by
  unfold State.judge
  dsimp only
  split
  · rename_i h
    simp only [h, State.statsOf_setWindow, reduceCtorEq, decide_false, Bool.or_false]
    split
    · subst_vars; rfl
    · rfl
  · rename_i h
    rw [State.flush_eq]
    show (State.setStats _ w _).statsOf v = _
    simp [h]
  · rename_i h
    simp only [h, State.statsOf_setWindow, reduceCtorEq, decide_false, Bool.or_false]
    split
    · subst_vars; rfl
    · rfl

/-- The one health input of an access end that moves the machine: an exhaustion is a failure, else the outcome's
class (R57, R85). -/
def accessInput (o : Outcome) (exhausted : Bool) : HealthInput := if exhausted then .failure else o.healthInput

/-- An access end gives one input to the health machine, whose notices are entered. -/
theorem State.judgeAll_eq (s : State) (w : WinId) {o : Outcome} {exhausted : Bool}
    (h : exhausted = true → o = .defer) : s.judgeAll w o exhausted = s.judge w (accessInput o exhausted) := by
  unfold State.judgeAll accessInput
  cases exhausted with
  | false => rfl
  | true =>
    rw [h rfl]
    simp [Outcome.healthInput, State.judge_neutral]

/-! ## Delivery (R29) -/

/-- The holder's part of a delivery. -/
def State.holderPart (s : State) (a : Access) (t : Turn) (o : Outcome) (lines : BusData) : TurnResult :=
  ({ s with bus := { s.bus with gapRecord := a.gapAfter } }.countOutcome a.window o).holderTakes t o lines

theorem State.holderPart_exhausted {s : State} {a : Access} {t : Turn} {o : Outcome} {lines : BusData}
    (h : (s.holderPart a t o lines).exhausted = true) : o = .defer :=
  State.holderTakes_exhausted h

/-- Everything a delivery leaves alone, and the release-gap record it sets (R29, R32). -/
theorem State.deliver_frame (s : State) (a : Access) (t : Turn) (o : Outcome) (lines : BusData) :
    (s.deliver a t o lines).1.phase = s.phase ∧ (s.deliver a t o lines).1.lreq = s.lreq ∧
    (s.deliver a t o lines).1.rate = s.rate ∧ (s.deliver a t o lines).1.pollTimer = s.pollTimer ∧
    (s.deliver a t o lines).1.intervalTimer = s.intervalTimer ∧
    (s.deliver a t o lines).1.now = s.now ∧
    (s.deliver a t o lines).1.bus = { s.bus with gapRecord := a.gapAfter } ∧
    (s.deliver a t o lines).1.linkGrants = s.linkGrants ∧
    (s.deliver a t o lines).1.intervalNumber = s.intervalNumber ∧
    (s.deliver a t o lines).1.timing = s.timing ∧ (s.deliver a t o lines).1.rx = s.rx ∧
    (s.deliver a t o lines).1.tx = s.tx ∧ (s.deliver a t o lines).1.pending = s.pending ∧
    (s.deliver a t o lines).1.watch = (s.holderPart a t o lines).state.watch ∧
    (s.deliver a t o lines).1.pollQueue = (s.holderPart a t o lines).state.pollQueue ∧
    (s.deliver a t o lines).2 = (s.holderPart a t o lines).next := by
  have hframe := State.holderTakes_frame
    ({ s with bus := { s.bus with gapRecord := a.gapAfter } }.countOutcome a.window o) t o lines
  change HolderFrame _ (s.holderPart a t o lines).state at hframe
  unfold State.deliver
  dsimp only
  change _ ∧ _ ∧ _ ∧ _ ∧ _ ∧ _ ∧ _ ∧ _ ∧ _ ∧ _ ∧ _ ∧ _ ∧ _ ∧ _ ∧ _ ∧ (s.holderPart a t o lines).next = _
  simp only [show ({ s with bus := { s.bus with gapRecord := a.gapAfter } }.countOutcome a.window o).holderTakes t o
    lines = s.holderPart a t o lines from rfl, State.judgeAll_eq _ _ State.holderPart_exhausted]
  refine ⟨?_, ?_, ?_, ?_, ?_, ?_, ?_, ?_, ?_, ?_, ?_, ?_, ?_, ?_, ?_, trivial⟩ <;> simp <;> split <;>
    simp [hframe.phase, hframe.lreq, hframe.rate, hframe.pollTimer, hframe.intervalTimer, hframe.now,
      hframe.bus, hframe.linkGrants, hframe.intervalNumber, hframe.timing, hframe.rx, hframe.tx, hframe.pending]

/-- The windows after a delivery: the health machine of the access's window has taken its input (R85, R86). -/
theorem State.deliver_window (s : State) (a : Access) (t : Turn) (o : Outcome) (lines : BusData) (v : WinId) :
    (s.deliver a t o lines).1.window v =
      if a.window = v then
        { s.window a.window with
          health := ((s.window a.window).health.take (s.window a.window).fields.declareCount
            (s.window a.window).fields.clearCount (accessInput o (s.holderPart a t o lines).exhausted)).1 }
      else s.window v := by
  have hframe := State.holderTakes_frame
    ({ s with bus := { s.bus with gapRecord := a.gapAfter } }.countOutcome a.window o) t o lines
  have hwindow : ∀ u : WinId, (if (s.holderPart a t o lines).exhausted then
      (s.holderPart a t o lines).state.countExhaustion a.window else
      (s.holderPart a t o lines).state).window u = s.window u := by
    intro u
    have : (s.holderPart a t o lines).state.window u = s.window u := State.window_congr hframe.windows u
    split <;> simp [this]
  show ((if (s.holderPart a t o lines).exhausted then
      (s.holderPart a t o lines).state.countExhaustion a.window else
      (s.holderPart a t o lines).state).judgeAll a.window o (s.holderPart a t o lines).exhausted).1.window v = _
  rw [State.judgeAll_eq _ _ State.holderPart_exhausted, State.judge_window, hwindow, hwindow]

/-- The statistics after a delivery: the outcome and an exhaustion are counted on the access's window (R117), and
failed-seen may be set. -/
theorem State.deliver_statsOf (s : State) (a : Access) (t : Turn) (o : Outcome) (lines : BusData) (v : WinId) :
    (s.deliver a t o lines).1.statsOf v =
      if a.window = v then
        { (if (s.holderPart a t o lines).exhausted then ((s.statsOf v).countOutcome o).countExhaustion
            else (s.statsOf v).countOutcome o) with
          failedSeen := (s.statsOf v).failedSeen ||
            decide (((s.window v).health.take (s.window v).fields.declareCount (s.window v).fields.clearCount
              (accessInput o (s.holderPart a t o lines).exhausted)).2 = .declared) }
      else s.statsOf v := by
  have hframe := State.holderTakes_frame
    ({ s with bus := { s.bus with gapRecord := a.gapAfter } }.countOutcome a.window o) t o lines
  have hwindow : ∀ u : WinId, (if (s.holderPart a t o lines).exhausted then
      (s.holderPart a t o lines).state.countExhaustion a.window else
      (s.holderPart a t o lines).state).window u = s.window u := by
    intro u
    have : (s.holderPart a t o lines).state.window u = s.window u := State.window_congr hframe.windows u
    split <;> simp [this]
  have hstats : ∀ u : WinId, (if (s.holderPart a t o lines).exhausted then
      (s.holderPart a t o lines).state.countExhaustion a.window else
      (s.holderPart a t o lines).state).statsOf u =
      if a.window = u then
        (if (s.holderPart a t o lines).exhausted then ((s.statsOf u).countOutcome o).countExhaustion
          else (s.statsOf u).countOutcome o)
      else s.statsOf u := by
    intro u
    have : (s.holderPart a t o lines).state.statsOf u =
        if a.window = u then (s.statsOf u).countOutcome o else s.statsOf u := by
      refine (State.statsOf_congr hframe.stats u).trans ?_
      rw [State.statsOf_countOutcome]
      by_cases h : a.window = u
      · subst h; rfl
      · rw [if_neg h, if_neg h]; rfl
    split
    · rw [State.statsOf_countExhaustion]
      by_cases h : a.window = u
      · subst h; simp [this]
      · simp [this, h]
    · exact this
  show ((if (s.holderPart a t o lines).exhausted then
      (s.holderPart a t o lines).state.countExhaustion a.window else
      (s.holderPart a t o lines).state).judgeAll a.window o (s.holderPart a t o lines).exhausted).1.statsOf v = _
  rw [State.judgeAll_eq _ _ State.holderPart_exhausted, State.judge_statsOf, hwindow, hstats, hstats]
  by_cases h : a.window = v
  · subst h
    simp only [if_true]
    split <;> cases o <;> rfl
  · simp [h]

/-- A health input only takes entries from the queue; a declaration leaves none that the flush takes (R64, R87). -/
theorem State.judge_queue {s : State} {w : WinId} {input : HealthInput} {e : LinkEntry}
    (h : e ∈ (s.judge w input).1.queue) :
    e ∈ s.queue ∧
      (((s.window w).health.take (s.window w).fields.declareCount (s.window w).fields.clearCount input).2 =
        .declared → e.flushedBy w = false) := by
  unfold State.judge at h
  dsimp only at h
  split at h
  · rename_i hnone
    simp only [State.setWindow_queue] at h
    exact ⟨h, fun hd => by rw [hnone] at hd; cases hd⟩
  · have hflush := State.flush_queue _ w h
    exact ⟨hflush.1, fun _ => hflush.2⟩
  · rename_i hrecovered
    simp only [State.setWindow_queue] at h
    exact ⟨h, fun hd => by rw [hrecovered] at hd; cases hd⟩

/-- The queue and the tracker after a delivery are those of one health input on the holder's part. -/
theorem State.deliver_queue (s : State) (a : Access) (t : Turn) (o : Outcome) (lines : BusData) :
    ∃ x : State,
      (s.deliver a t o lines).1.queue =
          (x.judge a.window (accessInput o (s.holderPart a t o lines).exhausted)).1.queue ∧
        (s.deliver a t o lines).1.tracker =
          (x.judge a.window (accessInput o (s.holderPart a t o lines).exhausted)).1.tracker ∧
        x.queue = (s.holderPart a t o lines).state.queue ∧
        x.tracker = (s.holderPart a t o lines).state.tracker ∧ x.windows = s.windows := by
  have hframe := State.holderTakes_frame
    ({ s with bus := { s.bus with gapRecord := a.gapAfter } }.countOutcome a.window o) t o lines
  refine ⟨if (s.holderPart a t o lines).exhausted then
      (s.holderPart a t o lines).state.countExhaustion a.window else
      (s.holderPart a t o lines).state, ?_, ?_, ?_, ?_, ?_⟩
  · show (State.judgeAll _ _ _ (s.holderPart a t o lines).exhausted).1.queue = _
    rw [State.judgeAll_eq _ _ State.holderPart_exhausted]
    rfl
  · show (State.judgeAll _ _ _ (s.holderPart a t o lines).exhausted).1.tracker = _
    rw [State.judgeAll_eq _ _ State.holderPart_exhausted]
    rfl
  · split <;> simp
  · split <;> simp
  · split <;> simp [State.holderPart, hframe.windows]

/-- The end of an access (R29): the delivery, and the turn goes on or ends. -/
theorem State.accessEnd_eq {s : State} {a : Access} {t : Turn} (hstate : s.bus.state = .access a)
    (hturn : s.bus.turn = some t) (ready : List Bool) (deferred : Bool) (lines : BusData) :
    s.accessEnd ready deferred lines =
      (s.deliver a t (a.profile.outcome ready deferred) lines).1.continueTurn t
        (s.deliver a t (a.profile.outcome ready deferred) lines).2 := by
  simp [State.accessEnd, hstate, hturn]

end Sys2Proof.Machine
end

