-- ==== Sys2Proof/Laws/AccessEnd.lean ====
section
/-! SUPPORT. What ACCESS_END leaves, said once: a request completes and the turn is over, or the turn goes on with its
next access (R22, R23, R53, R62, R78), the flush completes what it takes (R64), and the notices are those of the health
machine and the watch entry (R87, R90, R110, R112). -/

namespace Sys2Proof.Machine

/-! ## Reading entries and outcomes -/

theorem State.entryOf_tag {s : State} {tag : Tag} {e : LinkEntry} (h : s.entryOf tag = some e) : e.tag = tag := by
  simpa using List.find?_some (show s.queue.find? (fun x => x.tag = tag) = some e from h)

/-- An updated entry is found in the place of the old one. -/
theorem State.updateEntry_entryOf {s : State} {e e' : LinkEntry} (h : s.entryOf e'.tag = some e) :
    (s.updateEntry e').entryOf e'.tag = some e' := by
  have hsame : ∀ x : LinkEntry, (if x.tag = e'.tag then e' else x).tag = e'.tag ↔ x.tag = e'.tag := by
    intro x
    split <;> simp_all
  have hfind : s.queue.find? (fun x => x.tag = e'.tag) = some e := h
  simp only [State.entryOf, State.updateEntry, List.find?_map, Function.comp_def, hsame, hfind, Option.map_some,
    State.entryOf_tag h, if_true]

theorem Profile.outcome_ok {p : Profile} {ready : List Bool} (h : (p.strobeEnd ready).2 = true) :
    p.outcome ready false = .ok := by
  simp [Profile.outcome, h]

theorem SeqStep.gather_eq_heldAfter (st : SeqStep) (lane : Lane) (i : Nat) (held : Value) (lines : BusData) :
    st.gather lane i held lines = st.heldAfter lane i held lines := by
  unfold SeqStep.gather SeqStep.heldAfter
  cases st.dirAt lane i <;> simp

theorem SeqStep.mismatches_eq_false {st : SeqStep} {v : Value} : st.mismatches v = false ↔ ¬ st.differs v := by
  unfold SeqStep.differs SeqStep.mismatches
  cases st.op <;> simp

/-- Work stands at an index exactly while the request is longer. -/
theorem LinkRequest.workAt_eq_none {r : LinkRequest} {i : Nat} (h : r.size ≤ i) : r.workAt i = none := by
  cases r <;> simp [LinkRequest.workAt, LinkRequest.size] at h ⊢ <;> omega

/-! ## Completions and health inputs (R64, R86, R87) -/

/-- Every one of the entries that are completed together is DONE with its reply, and listed (R64, R150). -/
theorem State.completeAll_hasListed_of_mem (s : State) {es : List LinkEntry} (status : Status) {e : LinkEntry}
    (h : e ∈ es) (hnodup : (es.map LinkEntry.tag).Nodup) :
    (s.completeAll es status).hasListed e.tag e.phase (e.reply status) := by
  induction es generalizing s with
  | nil => cases h
  | cons x es ih =>
    rw [List.map_cons, List.nodup_cons] at hnodup
    rcases List.mem_cons.mp h with rfl | h
    · exact (s.complete_hasListed e status).completeAll
        (fun y hy htag => hnodup.1 (List.mem_map.mpr ⟨y, hy, htag⟩)) status
    · exact ih _ h hnodup.2

theorem Health.take_declared (h : Health) (declareCount clearCount : Nat) (i : HealthInput) :
    (h.take declareCount clearCount i).2 = .declared ↔
      h.state ≠ .failed ∧ (h.take declareCount clearCount i).1.state = .failed := by
  cases i <;> cases hs : h.state <;> simp only [Health.take, hs] <;> (try split) <;> simp_all [Health.fresh]

theorem Health.take_recovered (h : Health) (declareCount clearCount : Nat) (i : HealthInput) :
    (h.take declareCount clearCount i).2 = .recovered ↔
      h.state = .failed ∧ (h.take declareCount clearCount i).1.state ≠ .failed := by
  cases i <;> cases hs : h.state <;> simp only [Health.take, hs] <;> (try split) <;> simp_all [Health.fresh]

/-- A success declares nothing, and so flushes nothing. -/
theorem State.judge_success (s : State) (w : WinId) :
    (s.judge w .success).1.queue = s.queue ∧ (s.judge w .success).1.tracker = s.tracker := by
  have hdeclared : ((s.window w).health.take (s.window w).fields.declareCount (s.window w).fields.clearCount
      .success).2 ≠ .declared := by
    unfold Health.take
    cases (s.window w).health.state <;> simp
    split <;> simp
  unfold State.judge
  dsimp only
  split <;> simp_all

/-- A health input completes no tag that has no entry queued: what is stored and listed under it stays so. -/
theorem State.judge_hasListed {s : State} {w : WinId} {input : HealthInput} {tag : Tag} (h : s.entryOf tag = none) :
    (s.judge w input).1.entryOf tag = none ∧
      ∀ {phase r}, s.hasListed tag phase r → (s.judge w input).1.hasListed tag phase r := by
  have habsent : ∀ e ∈ s.queue, e.tag ≠ tag := by
    intro e he
    simpa using List.find?_eq_none.mp (show s.queue.find? (fun x => x.tag = tag) = none from h) e he
  refine ⟨List.find?_eq_none.mpr fun e he => by simpa using habsent e (State.judge_queue he).1, ?_⟩
  intro phase r hlisted
  unfold State.judge
  dsimp only
  split
  · exact hlisted
  · refine State.hasListed.completeAll ?_ (fun e he => habsent e (List.mem_of_mem_filter he)) _
    exact hlisted
  · exact hlisted

/-- A declaration completes every entry that its flush takes WINDOW_FAILED (R64, R87). -/
theorem State.judge_flushes {s : State} {w : WinId} {input : HealthInput} {e : LinkEntry}
    (hdeclared : ((s.window w).health.take (s.window w).fields.declareCount (s.window w).fields.clearCount
      input).2 = .declared)
    (he : e ∈ s.queue) (hflushed : e.flushedBy w = true) (hnodup : (s.queue.map LinkEntry.tag).Nodup) :
    (s.judge w input).1.entryOf e.tag = none ∧
      (s.judge w input).1.hasListed e.tag e.phase (e.reply .windowFailed) := by
  have hmem : e ∈ s.queue.filter (fun x => x.flushedBy w) := List.mem_filter.mpr ⟨he, hflushed⟩
  unfold State.judge
  simp only [hdeclared]
  refine ⟨List.find?_eq_none.mpr fun x hx => ?_, State.completeAll_hasListed_of_mem _ _ hmem
    (hnodup.sublist (List.filter_sublist.map _))⟩
  simp only [State.flush, State.completeAll_queue, List.mem_filter, List.all_eq_true, decide_eq_true_eq] at hx ⊢
  exact fun h => hx.2 e ⟨he, hflushed⟩ (by simpa using h)

/-- The notices of one health input are those of the transition it made (R87, R90). -/
theorem State.judge_contents (s : State) (w : WinId) (input : HealthInput) :
    (s.judge w input).2 = s.healthNotices (s.judge w input).1 w := by
  have hwindow := s.judge_window w w input
  rw [if_pos rfl] at hwindow
  unfold State.healthNotices
  rw [hwindow]
  have hdeclared := Health.take_declared (s.window w).health (s.window w).fields.declareCount
    (s.window w).fields.clearCount input
  have hrecovered := Health.take_recovered (s.window w).health (s.window w).fields.declareCount
    (s.window w).fields.clearCount input
  unfold State.judge Window.healthNotice
  dsimp only
  generalize (s.window w).health.take (s.window w).fields.declareCount (s.window w).fields.clearCount input =
    taken at *
  cases hflag : (s.window w).fields.notifyHealth <;> cases hevent : taken.2 <;> simp_all
  by_cases hfailed : (s.window w).health.state = .failed <;> simp_all

/-! ## Turns that end and turns that go on (R22, R23, R32, R35) -/

/-- A turn that ends behind access `a` is over (R23, R32, R35). -/
theorem State.endTurn_turnOver {s d : State} {a : Access} (hbus : d.bus = { s.bus with gapRecord := a.gapAfter }) :
    s.turnOver d.endTurn a := by
  have hgap : a.gapAfter =
      if a.dir = .read ∧ 1 ≤ a.profile.releaseGap then
        some { select := a.select, remaining := a.profile.releaseGap : GapRecord }
      else none := by
    unfold Access.gapAfter
    cases a.dir <;> simp
  unfold State.turnOver State.endTurn
  rw [← hgap]
  cases hlend : s.bus.lendPending <;> simp [hbus, hlend, State.takeLend]
  cases h : a.gapAfter <;> simp_all [satInc, Config.max32]

theorem State.turnOver_chooseAfterEntry {b s s' t : State} {a : Access} (hbus : s'.bus = s.bus) (h : s'.turnOver t a) :
    s.turnOver (b.chooseAfterEntry t) a := by
  unfold State.turnOver at *
  rw [State.chooseAfterEntry_bus]
  rw [hbus] at h
  exact h

/-- The access that a turn goes on with (R22, R24). -/
theorem State.startNext_accessing {s x : State} {turn : Turn} {st : SeqStep} {i : Nat} {held : Value}
    (hfields : (x.window turn.window).fields = (s.window turn.window).fields)
    (hwork : x.workOf turn = some (st, i, held)) (hlend : x.bus.lendPending = s.bus.lendPending) :
    s.accessing (x.startNext turn) turn turn.window st i held := by
  unfold State.accessing
  simp only [State.startNext, hwork, State.startAccess,
    show (State.window { x with bus := { x.bus with turn := some turn } } turn.window) = x.window turn.window from rfl,
    hfields]
  refine ⟨trivial, trivial, hlend, _, rfl, rfl, rfl, rfl, rfl, rfl, rfl, fun hdir => ?_, rfl, rfl⟩
  dsimp only at hdir ⊢
  rw [hdir]

/-! ## The delivery of an OK outcome (R53) -/

/-- An OK access leaves the queue and the tracker as its holder does. -/
theorem State.deliver_ok (s : State) (a : Access) (t : Turn) (lines : BusData) :
    (s.deliver a t .ok lines).1.queue = (s.holderPart a t .ok lines).state.queue ∧
      (s.deliver a t .ok lines).1.tracker = (s.holderPart a t .ok lines).state.tracker := by
  obtain ⟨x, hqueue, htracker, hxqueue, hxtracker, -⟩ := State.deliver_queue s a t .ok lines
  have hexhausted : (s.holderPart a t .ok lines).exhausted = false := by
    cases h : (s.holderPart a t .ok lines).exhausted with
    | false => rfl
    | true => exact absurd (State.holderPart_exhausted h) (by simp)
  simp only [accessInput, Outcome.healthInput, hexhausted, Bool.false_eq_true, if_false] at hqueue htracker
  exact ⟨(hqueue.trans (x.judge_success _).1).trans hxqueue,
    (htracker.trans (x.judge_success _).2).trans hxtracker⟩

/-- The holder of a link turn takes an OK outcome with the queue and the windows as they are. -/
theorem State.holderPart_link {s : State} {a : Access} {turn : Turn} {tag : Tag} {e : LinkEntry} (o : Outcome)
    (lines : BusData) (hholder : turn.holder = .link tag) (he : s.entryOf tag = some e) :
    s.holderPart a turn o lines =
      ({ s with bus := { s.bus with gapRecord := a.gapAfter } }.countOutcome a.window o).linkTakes e turn o lines := by
  unfold State.holderPart State.holderTakes
  simp only [hholder]
  rw [State.entryOf_congr (s := s) (by simp), he]

/-- The last access of a unit or step (R53, R78). -/
theorem State.linkTakes_last {s x : State} {e : LinkEntry} {turn : Turn} {st : SeqStep} {lines : BusData}
    (hwindows : x.windows = s.windows) (hwork : e.request.workAt e.done = some st)
    (hlast : e.accessIndex + 1 = st.accesses (s.window e.window).fields.lane) :
    x.linkTakes e turn .ok lines =
      x.unitDone e turn st (st.heldAfter (s.window e.window).fields.lane e.accessIndex e.held lines) := by
  simp [State.linkTakes, hwork, State.window_congr hwindows, hlast, SeqStep.gather_eq_heldAfter]

/-- ACCESS_END on which the holder stops: its entry is gone, its reply is stored and listed or sent, and its turn is
over (R23, R53, R54, R57, R150). -/
theorem exec_accessEnd_stops {s : State} {a : Access} {turn : Turn} {tag : Tag} {e e' : LinkEntry}
    {ready : List Bool} {deferred : Bool} {lines : BusData} {status : Status} {exhausted : Bool}
    (h : s.phase = .running) (hstate : s.bus.state = .access a) (hturn : s.bus.turn = some turn)
    (hholder : turn.holder = .link tag) (he : s.entryOf tag = some e) (htag : e'.tag = tag)
    (hstops : ∀ x : State, x.queue = s.queue → x.windows = s.windows → x.now = s.now →
      x.linkTakes e turn (a.profile.outcome ready deferred) lines = x.stopWith e' status exhausted) :
    ∃ t, exec (.accessEnd ready deferred lines) s = .next t ∧ t.entryOf tag = none ∧
      t.hasStored tag e'.phase (e'.reply status) ∧ s.turnOver t a ∧
      (∀ v, t.window v = (s.transmit.deliver a turn (a.profile.outcome ready deferred) lines).1.window v ∧
        t.statsOf v = (s.transmit.deliver a turn (a.profile.outcome ready deferred) lines).1.statsOf v) ∧
      (s.transmit.holderPart a turn (a.profile.outcome ready deferred) lines).exhausted = exhausted := by
  refine ⟨_, exec_accessEnd h .., ?_⟩
  have hpart := State.holderPart_link (s := s.transmit) (a := a) (a.profile.outcome ready deferred) lines hholder
    (by simpa using he)
  rw [hstops _ (by simp) (by simp) (by simp)] at hpart
  obtain ⟨x, hqueue, htracker, hxqueue, hxtracker, -⟩ :=
    State.deliver_queue s.transmit a turn (a.profile.outcome ready deferred) lines
  have hframe := State.deliver_frame s.transmit a turn (a.profile.outcome ready deferred) lines
  have hnext : (s.transmit.deliver a turn (a.profile.outcome ready deferred) lines).2 = .stop := by
    rw [hframe.2.2.2.2.2.2.2.2.2.2.2.2.2.2.2, hpart]
    rfl
  rw [hpart] at hxqueue hxtracker
  rw [State.accessEnd_eq (a := a) (t := turn) (by simp [hstate]) (by simp [hturn]), hnext]
  subst htag
  have hgone : x.entryOf e'.tag = none := by
    rw [State.entryOf_congr hxqueue]
    exact State.complete_entryOf_self ..
  have hdone : x.hasListed e'.tag e'.phase (e'.reply status) :=
    (State.hasListed_congr hxtracker).mpr (State.complete_hasListed _ e' status)
  have hjudged := State.judge_hasListed (w := a.window)
    (input := accessInput (a.profile.outcome ready deferred)
      (s.transmit.holderPart a turn (a.profile.outcome ready deferred) lines).exhausted) hgone
  refine ⟨?_, ?_, State.turnOver_chooseAfterEntry (s' := s.transmit) (by simp)
    (State.endTurn_turnOver hframe.2.2.2.2.2.2.1), fun v => ⟨?_, ?_⟩, by rw [hpart]; rfl⟩
  · rw [State.chooseAfterEntry_entryOf, State.continueTurn, State.entryOf_congr (State.endTurn_queue _),
      State.entryOf_congr hqueue, hjudged.1]
  · refine State.hasListed.chooseAfterEntry ?_
    rw [State.continueTurn, State.hasListed_congr (State.endTurn_tracker _), State.hasListed_congr htracker]
    exact hjudged.2 hdone
  · rw [State.chooseAfterEntry_window, State.continueTurn, State.window_congr (State.endTurn_windows _)]
  · rw [State.chooseAfterEntry_statsOf, State.continueTurn, State.statsOf_congr (State.endTurn_stats _)]

/-- ACCESS_END with an OK outcome on which the holder goes on: its entry is updated, and its next access follows in the
same turn (R22, R53, R74, R76). -/
theorem exec_accessEnd_goesOn {s : State} {a : Access} {turn : Turn} {tag : Tag} {e e' : LinkEntry} {st : SeqStep}
    {ready : List Bool} {lines : BusData} (h : s.phase = .running) (hstate : s.bus.state = .access a)
    (hturn : s.bus.turn = some turn) (hholder : turn.holder = .link tag) (he : s.entryOf tag = some e)
    (hready : (a.profile.strobeEnd ready).2 = true) (htag : e'.tag = tag)
    (hwork : e'.request.workAt e'.done = some st)
    (hgoes : ∀ x : State, x.queue = s.queue → x.windows = s.windows →
      x.linkTakes e turn .ok lines =
        { state := x.updateEntry e', next := .goOn turn, exhausted := false, notices := [] }) :
    ∃ t, exec (.accessEnd ready false lines) s = .next t ∧ t.entryOf tag = some e' ∧
      s.accessing t turn turn.window st e'.accessIndex e'.held := by
  refine ⟨_, exec_accessEnd h .., ?_⟩
  have hpart := State.holderPart_link (s := s.transmit) (a := a) .ok lines hholder (by simpa using he)
  rw [hgoes _ (by simp) (by simp)] at hpart
  obtain ⟨hqueue, -⟩ := State.deliver_ok s.transmit a turn lines
  have hframe := State.deliver_frame s.transmit a turn .ok lines
  have hnext : (s.transmit.deliver a turn .ok lines).2 = .goOn turn := by
    rw [hframe.2.2.2.2.2.2.2.2.2.2.2.2.2.2.2, hpart]
  rw [hpart] at hqueue
  rw [State.accessEnd_eq (a := a) (t := turn) (by simp [hstate]) (by simp [hturn]), Profile.outcome_ok hready, hnext]
  subst htag
  have hentry : (s.transmit.deliver a turn .ok lines).1.entryOf e'.tag = some e' := by
    rw [State.entryOf_congr hqueue]
    exact State.updateEntry_entryOf (e := e) (by rw [State.entryOf_congr (s := s) (by simp), he])
  have hfields : ((s.transmit.deliver a turn .ok lines).1.window turn.window).fields =
      (s.window turn.window).fields := by
    rw [State.deliver_window]
    split
    · rename_i hwindow
      rw [← hwindow]
      simp
    · simp
  refine ⟨?_, ?_⟩
  · rw [State.chooseAfterEntry_entryOf, State.continueTurn, State.entryOf_congr (State.startNext_queue _ _)]
    exact hentry
  · have hnow := State.startNext_accessing (s := s) (turn := turn) (x := (s.transmit.deliver a turn .ok lines).1)
      (st := st) (i := e'.accessIndex) (held := e'.held) hfields
      (by simp [State.workOf, hholder, hentry, hwork]) (by rw [hframe.2.2.2.2.2.2.1]; simp)
    unfold State.accessing at hnow ⊢
    simpa only [State.chooseAfterEntry_bus, State.continueTurn] using hnow

/-! ## The notices of an access end (R87, R90, R110, R112, R133) -/

/-- Entering notices looks at no sent mark and at nothing that waits for the transmitter. -/
theorem State.enterNotices_offWire {s t : State} (h : t.offWire.notices = s.offWire.notices)
    (contents : List NoticeContent) :
    (t.enterNotices contents).offWire.notices = (s.enterNotices contents).offWire.notices := by
  induction contents generalizing s t with
  | nil => exact h
  | cons c contents ih =>
    refine ih (s := s.enterNotice c) (t := t.enterNotice c) ?_
    have hlength : t.notices.queue.length = s.notices.queue.length := by
      have := congrArg (fun u => u.queue.length) h
      simpa [State.offWire] using this
    simp only [State.offWire, NoticeUnit.mk.injEq] at h
    obtain ⟨h1, h2, h3, h4, h5, h6, _⟩ := h
    unfold State.enterNotice NoticeUnit.enter
    simp only [State.offWire, hlength]
    split <;> simp [h1, h2, h3, h4, h5, h6, Notice.unsent]

theorem State.healthNotices_congr {s s' t t' : State} {w : WinId} (h : s'.window w = s.window w)
    (ht : t'.window w = t.window w) : s'.healthNotices t' w = s.healthNotices t w := by
  simp [State.healthNotices, h, ht]

/-- One health input and its notices, in a state whose windows and notices are those of `s`. -/
theorem State.judge_enterNotices {s x : State} {w : WinId} (hwindow : x.window w = s.window w)
    (hnotices : x.notices = s.notices) (input : HealthInput) (watch : List NoticeContent) (n : Nat) :
    ((x.judge w input).1.enterNotices (orderNotices n (x.judge w input).2 watch)).notices =
      (s.enterNotices (orderNotices n (s.healthNotices (x.judge w input).1 w) watch)).notices := by
  rw [State.judge_contents, State.healthNotices_congr hwindow rfl]
  simp only [State.enterNotices_notices]
  rw [State.judge_eq, hnotices]

/-- A delivery enters the health notices of its window and the watch notices of its holder. -/
theorem State.deliver_notices (s : State) (a : Access) (t : Turn) (o : Outcome) (lines : BusData) :
    (s.deliver a t o lines).1.notices =
      (s.enterNotices (orderNotices s.freeCount (s.healthNotices (s.deliver a t o lines).1 a.window)
        (s.holderPart a t o lines).notices)).notices := by
  have hframe := State.holderTakes_frame
    ({ s with bus := { s.bus with gapRecord := a.gapAfter } }.countOutcome a.window o) t o lines
  change HolderFrame _ (s.holderPart a t o lines).state at hframe
  have hjudged : (s.deliver a t o lines).1.window a.window =
      ((if (s.holderPart a t o lines).exhausted then (s.holderPart a t o lines).state.countExhaustion a.window
        else (s.holderPart a t o lines).state).judge a.window
          (accessInput o (s.holderPart a t o lines).exhausted)).1.window a.window := by
    rw [← State.judgeAll_eq _ _ State.holderPart_exhausted]
    rfl
  rw [State.healthNotices_congr rfl hjudged, ← State.judge_enterNotices]
  · rw [← State.judgeAll_eq _ _ State.holderPart_exhausted]
    rfl
  · have : (s.holderPart a t o lines).state.window a.window = s.window a.window :=
      State.window_congr hframe.windows _
    split <;> simp [this]
  · have := hframe.notices
    split <;> simp_all

/-- ACCESS_END enters the health notices of its window and the watch notices of its holder, in an order that a free
value decides (R133; notes/assumptions/8.md). -/
theorem exec_accessEnd_notices {s : State} {a : Access} {turn : Turn} (h : s.phase = .running)
    (hstate : s.bus.state = .access a) (hturn : s.bus.turn = some turn) (ready : List Bool) (deferred : Bool)
    (lines : BusData) :
    ∃ t, exec (.accessEnd ready deferred lines) s = .next t ∧
      t.offWire.notices =
        (s.enterNotices (orderNotices s.freeCount (s.healthNotices t a.window)
          (s.transmit.holderPart a turn (a.profile.outcome ready deferred) lines).notices)).offWire.notices := by
  refine ⟨_, exec_accessEnd h .., ?_⟩
  rw [State.accessEnd_eq (a := a) (t := turn) (by simp [hstate]) (by simp [hturn]), State.chooseAfterEntry_offWire,
    State.continueTurn_eq]
  have hdelivered := State.deliver_notices s.transmit a turn (a.profile.outcome ready deferred) lines
  rw [State.transmit_freeCount, State.healthNotices_congr (s := s) (State.transmit_window s _) rfl] at hdelivered
  refine Eq.trans ?_ (State.enterNotices_offWire (s := s) (t := s.transmit) (by rw [State.transmit_offWire]) _)
  rw [State.healthNotices_congr (s := s) (t := (s.transmit.deliver a turn (a.profile.outcome ready deferred) lines).1)
    rfl (by simp; rfl)]
  simp only [State.offWire]
  rw [hdelivered]

end Sys2Proof.Machine
end

