-- ==== Sys2Proof/Laws/Arbiter.lean ====
section
/-! SUPPORT. Who may be granted the free bus (R46 to R49), said once. -/

namespace Sys2Proof.Machine

/-- With one entry for each tag, an entry is the oldest item bound to its window when no entry before it is bound to
it (R46). -/
theorem State.oldestOn_tag_iff {s : State} {older younger : List LinkEntry} {e : LinkEntry}
    (hnodup : (s.queue.map LinkEntry.tag).Nodup) (hqueue : s.queue = older ++ e :: younger) :
    (s.oldestOn e.window).map LinkEntry.tag = some e.tag ↔ ∀ x ∈ older, x.window ≠ e.window := by
  rw [hqueue, List.map_append, List.nodup_append] at hnodup
  simp only [State.oldestOn, hqueue, List.find?_append]
  cases hfind : older.find? (fun x => decide (x.window = e.window)) with
  | none => simpa using hfind
  | some x =>
    have hmem := List.mem_of_find?_eq_some hfind
    have hwindow : x.window = e.window := by simpa using List.find?_some hfind
    have hne : x.tag ≠ e.tag := hnodup.2.2 x.tag (List.mem_map.mpr ⟨x, hmem, rfl⟩) e.tag (by simp)
    simp only [Option.some_or, Option.map_some, Option.some.injEq, hne, false_iff]
    exact fun h => h x hmem hwindow

/-- Eligibility of a link entry by its place in the queue (R48). -/
theorem State.eligibleLink_iff {s : State} {older younger : List LinkEntry} {e : LinkEntry}
    (hnodup : (s.queue.map LinkEntry.tag).Nodup) (hqueue : s.queue = older ++ e :: younger) :
    s.eligibleLink e = true ↔ e.grantableBehind older := by
  unfold LinkEntry.grantableBehind State.eligibleLink
  rw [← State.oldestOn_tag_iff hnodup hqueue]
  simp [and_assoc]

/-- Eligibility of a poll request by the entries bound to its window (R47, R49). -/
theorem State.eligiblePoll_iff {s : State} {id : WatchId} : s.eligiblePoll id = true ↔ s.pollGrantable id := by
  unfold State.eligiblePoll State.watchWindow State.pollGrantable
  cases hwatch : s.watchOf id with
  | none => simp
  | some x =>
    cases hdecode : s.decode x.config.address with
    | none => simp [hdecode]
    | some w =>
      simp only [State.blocked, State.barrierOn, Bool.and_eq_true, Bool.not_eq_true', List.any_eq_false,
        decide_eq_true_eq, Option.some.injEq, hdecode, exists_eq_left', exists_and_left]
      refine ⟨fun h e he hw => ?_, fun h => ⟨fun e he hx => (h e he hx.1.2).2 hx.2, fun e he hx => ?_⟩⟩
      · have hbus : e.request.isBus = true := by
          by_contra hno
          exact h.2 e he ⟨by simpa using hno, hw⟩
        exact ⟨hbus, fun hd => h.1 e he ⟨⟨hbus, hw⟩, hd⟩⟩
      · have := (h e he hx.2).1
        simp_all

end Sys2Proof.Machine
end

