-- ==== Sys2Proof/Laws/Entry.lean ====
section
/-! SUPPORT. What an event that may enter notices does to the notice unit (R131, R133), and the choice of the transmitter
after it, also where an acknowledgement falls at the same time (R139, R168). -/

namespace Sys2Proof.Machine

/-- One entry (R133): a notice with its sent flag clear joins at the newest end, or none does; the oldest-notice state
stays. -/
theorem NoticeUnit.enter_shape (u : NoticeUnit) (c : NoticeContent) :
    (u.enter c).link = u.link ∧ (u.enter c).resendDue = u.resendDue ∧ (u.enter c).resendTimer = u.resendTimer ∧
      (u.enter c).resendCount = u.resendCount ∧
      ∃ entered, (u.enter c).queue = u.queue ++ entered ∧ ∀ x ∈ entered, x.sent = false := by
  unfold NoticeUnit.enter
  split
  · refine ⟨rfl, rfl, rfl, rfl, _, rfl, fun x hx => ?_⟩
    obtain rfl := List.mem_singleton.mp hx
    rfl
  · exact ⟨rfl, rfl, rfl, rfl, [], by simp, by simp⟩

/-- Several entries of one event, likewise. -/
theorem NoticeUnit.enterAll_shape (contents : List NoticeContent) (u : NoticeUnit) :
    (contents.foldl NoticeUnit.enter u).link = u.link ∧
      (contents.foldl NoticeUnit.enter u).resendDue = u.resendDue ∧
      (contents.foldl NoticeUnit.enter u).resendTimer = u.resendTimer ∧
      (contents.foldl NoticeUnit.enter u).resendCount = u.resendCount ∧
      ∃ entered, (contents.foldl NoticeUnit.enter u).queue = u.queue ++ entered ∧
        ∀ x ∈ entered, x.sent = false := by
  induction contents generalizing u with
  | nil => exact ⟨rfl, rfl, rfl, rfl, [], by simp, by simp⟩
  | cons c rest ih =>
    obtain ⟨h1, h2, h3, h4, first, hfirst, hnew⟩ := u.enter_shape c
    obtain ⟨g1, g2, g3, g4, later, hlater, hall⟩ := ih (u.enter c)
    rw [List.foldl_cons]
    refine ⟨g1.trans h1, g2.trans h2, g3.trans h3, g4.trans h4, first ++ later, ?_, fun x hx => ?_⟩
    · rw [hlater, hfirst, List.append_assoc]
    · exact (List.mem_append.mp hx).elim (hnew x) (hall x)

/-- Where no notice was due, the one that is due after an entry is one that was entered (R134). -/
theorem NoticeUnit.due_of_entered {u v : NoticeUnit} {entered : List Notice} (hnone : u.due = none)
    (hlink : v.link = u.link) (hresend : v.resendDue = u.resendDue) (hqueue : v.queue = u.queue ++ entered)
    {n : Notice} (hdue : v.due = some n) : n ∈ entered := by
  unfold NoticeUnit.due at hnone hdue
  rw [hlink, hresend, hqueue] at hdue
  cases hl : u.link with
  | deaf => simp [hl] at hdue
  | live =>
    simp only [hl] at hnone hdue
    split at hdue
    · rename_i h
      rw [if_pos h, List.head?_eq_none_iff] at hnone
      rw [hnone, List.nil_append] at hdue
      exact List.mem_of_mem_head? hdue
    · rename_i h
      rw [if_neg h] at hnone
      rw [List.find?_append, hnone, Option.none_or] at hdue
      exact List.mem_of_find?_eq_some hdue

/-- From `s` to `t` notices may have been entered; the transmitter is untouched. -/
def State.enteredOnly (s t : State) : Prop :=
  t.tx = s.tx ∧ t.pending = s.pending ∧ t.phase = s.phase ∧ t.rx = s.rx ∧
  ∃ contents : List NoticeContent, t.notices = contents.foldl NoticeUnit.enter s.notices

/-- ACCESS_END touches the notice unit by entries only (R29, R131). -/
theorem State.accessEnd_enteredOnly (s : State) (ready : List Bool) (deferred : Bool) (lines : BusData) :
    s.enteredOnly (s.accessEnd ready deferred lines) := by
  unfold State.accessEnd
  split
  · rename_i a t _ _
    have hframe := State.deliver_frame s a t (a.profile.outcome ready deferred) lines
    rw [State.continueTurn_eq]
    exact ⟨hframe.2.2.2.2.2.2.2.2.2.2.2.1, hframe.2.2.2.2.2.2.2.2.2.2.2.2.1, hframe.1,
      hframe.2.2.2.2.2.2.2.2.2.2.1, _, State.deliver_notices s a t (a.profile.outcome ready deferred) lines⟩
  · exact ⟨rfl, rfl, rfl, rfl, [], rfl⟩

/-- INTERVAL_END touches the notice unit by entries only (R122, R131). -/
theorem State.intervalEnd_enteredOnly (s : State) : s.enteredOnly s.intervalEnd := ⟨rfl, rfl, rfl, rfl, _, rfl⟩

/-- Where nothing was due on a LIVE unit, no queued notice has its sent flag clear (R134). -/
theorem NoticeUnit.sent_of_due_none {u : NoticeUnit} (hlive : u.link = .live) (h : u.due = none) :
    ∀ x ∈ u.queue, x.sent = true := by
  intro x hx
  unfold NoticeUnit.due at h
  simp only [hlive] at h
  split at h
  · rw [List.head?_eq_none_iff] at h
    simp [h] at hx
  · simpa using List.find?_eq_none.mp h x hx

/-- The timer of notice `m` waits exactly while the frame in transmission carries it with that mark (R139). -/
theorem State.timerAtFrameEnd_eq_some {s : State} {m : Nat} :
    s.timerAtFrameEnd = some m ↔ (s.tx.frame.map fun f => (f.timerAtEnd, f.notice)) = some (true, some m) := by
  cases hf : s.tx.frame with
  | none => simp [State.timerAtFrameEnd, hf]
  | some f => cases ht : f.timerAtEnd <;> simp [State.timerAtFrameEnd, hf, ht]

/-- What a take marks (R134, R169): the choice of a transmitter changes no number, and it sets the sent flag only of the
notice it puts on TXD, while FREE. -/
theorem State.transmit_marks (s : State) :
    ∃ mark : Notice → Notice, s.transmit.notices.queue = s.notices.queue.map mark ∧
      ∀ x, (mark x).number = x.number ∧
        ((mark x).sent = true → x.sent = true ∨
          (s.tx.frame = none ∧ s.transmit.tx.frame.map TxFrame.notice = some (some x.number))) := by
  cases hf : s.tx.frame with
  | some f => exact ⟨id, by rw [State.transmit_of_sending (by simp [hf])]; simp, fun x => ⟨rfl, Or.inl⟩⟩
  | none =>
    refine s.transmit_cases (P := fun t => ∃ mark : Notice → Notice, t.notices.queue = s.notices.queue.map mark ∧
      ∀ x, (mark x).number = x.number ∧ ((mark x).sent = true → x.sent = true ∨
        ((none : Option TxFrame) = none ∧ t.tx.frame.map TxFrame.notice = some (some x.number)))) ?_ ?_ ?_ ?_
    · exact ⟨id, by simp, fun x => ⟨rfl, Or.inl⟩⟩
    · exact fun _ _ _ _ => ⟨id, by simp [State.takeImmediate, State.send], fun x => ⟨rfl, Or.inl⟩⟩
    · exact fun _ _ _ _ => ⟨id, by simp [State.takeReply, State.send], fun x => ⟨rfl, Or.inl⟩⟩
    · intro n _ _ _
      refine ⟨_, rfl, fun x => ?_⟩
      split
      · rename_i hx
        exact ⟨rfl, fun _ => Or.inr ⟨rfl, by simp [State.takeNotice, State.send, hx]⟩⟩
      · exact ⟨rfl, Or.inl⟩

/-- An acknowledgement that empties the queue behind an entry: what the arrival does, and that it leaves nothing. -/
theorem State.ackEmptiesBehind_spec {s : State} (h : s.ackEmptiesBehind = true) :
    s.notices.queue ≠ [] ∧ ∃ ack rest f, s.pending = ack :: rest ∧ arrivalOf ack = some f ∧
      (f s).notices.queue = [] := by
  unfold State.ackEmptiesBehind at h
  rw [Bool.and_eq_true] at h
  refine ⟨by simpa using h.1, ?_⟩
  cases hp : s.pending with
  | nil => simp [hp] at h
  | cons ack rest =>
    cases hf : arrivalOf ack with
    | none => simp [hp, hf] at h
    | some f => exact ⟨ack, rest, f, rfl, hf, by simpa [hp, hf] using h.2⟩

/-- After an event that may enter notices a FREE transmitter has made its choice (R168). -/
theorem State.entryEvent_settled {s : State} (h : s.phase = .running) (f : State → State) :
    (s.entryEvent f).settled := by
  rw [State.entryEvent_running h]
  exact State.chooseAfterEntry_settled _ _

end Sys2Proof.Machine
end

