-- ==== Sys2Proof/Laws/Readers.lean ====
section
/-! SUPPORT. What the readers of request bodies make of a code, a value and a step (R67 to R70, R170), said once. -/

namespace Sys2Proof.Machine

/-! ## Codes (R170) -/

theorem UnitSize.ofCode?_eq_none {n : Nat} : UnitSize.ofCode? n = none ↔ ¬ unitCode n := by
  unfold UnitSize.ofCode? unitCode
  split <;> simp_all

theorem UnitSize.ofCode?_of_unitCode {n : Nat} (h : unitCode n) :
    ∃ u, UnitSize.ofCode? n = some u ∧ u.bytes = n := by
  rcases h with rfl | rfl | rfl
  exacts [⟨.one, rfl, rfl⟩, ⟨.two, rfl, rfl⟩, ⟨.four, rfl, rfl⟩]

@[simp] theorem UnitSize.ofCode?_bytes (u : UnitSize) : UnitSize.ofCode? u.bytes = some u := by cases u <;> rfl

theorem AddrMode.ofCode?_eq_none {n : Nat} : AddrMode.ofCode? n = none ↔ 2 ≤ n := by
  match n with
  | 0 | 1 | n + 2 => simp [AddrMode.ofCode?]

theorem Lane.ofCode?_isSome {n : Nat} : (∃ l, Lane.ofCode? n = some l) ↔ 1 ≤ n ∧ n ≤ 3 := by
  match n with
  | 0 | 1 | 2 | 3 | n + 4 => simp [Lane.ofCode?]

theorem Rights.ofCode?_isSome {n : Nat} : (∃ r, Rights.ofCode? n = some r) ↔ 1 ≤ n ∧ n ≤ 3 := by
  match n with
  | 0 | 1 | 2 | 3 | n + 4 => simp [Rights.ofCode?]

theorem ReadyMode.ofCode?_isSome {n : Nat} : (∃ m, ReadyMode.ofCode? n = some m) ↔ 1 ≤ n ∧ n ≤ 2 := by
  match n with
  | 0 | 1 | 2 | n + 3 => simp [ReadyMode.ofCode?]

theorem winId?_of_lt {n : Nat} (h : n < 8) : winId? n = some ⟨n, h⟩ := dif_pos h

theorem winId?_of_le {n : Nat} (h : 8 ≤ n) : winId? n = none := dif_neg (Nat.not_lt.mpr h)

theorem watchId?_of_lt {n : Nat} (h : n < 32) : watchId? n = some ⟨n, h⟩ := dif_pos h

theorem watchId?_of_le {n : Nat} (h : 32 ≤ n) : watchId? n = none := dif_neg (Nat.not_lt.mpr h)

/-! ## Values (R67) -/

@[simp] theorem UnitSize.toBytes_length (u : UnitSize) (v : Value) : (u.toBytes v).length = u.bytes := by
  cases u <;> rfl

@[simp] theorem UnitSize.toBytes_flatten_length (u : UnitSize) (values : List Value) :
    (values.map u.toBytes).flatten.length = values.length * u.bytes := by
  induction values with
  | nil => simp
  | cons v values ih => simp [ih, Nat.add_mul]; omega

/-- The bytes of a unit value are read as that value (R67). -/
theorem UnitSize.beNat_toBytes (u : UnitSize) {v : Value} (h : v.toNat < 2 ^ (8 * u.bytes)) :
    BitVec.ofNat 32 (beNat (u.toBytes v)) = v := by
  apply BitVec.eq_of_toNat_eq
  have := v.isLt
  cases u <;> simp [UnitSize.bytes, UnitSize.toBytes, be1, be2, be4, beNat] at h ⊢ <;> omega

/-- Values written one after the other are read back, whatever follows them (R67). -/
theorem readValues_toBytes (u : UnitSize) (values : List Value) (more : List Byte)
    (h : ∀ v ∈ values, v.toNat < 2 ^ (8 * u.bytes)) :
    readValues u values.length ((values.map u.toBytes).flatten ++ more) = values := by
  induction values with
  | nil => rfl
  | cons v values ih =>
    simp only [List.map_cons, List.flatten_cons, List.append_assoc, List.length_cons, readValues]
    rw [List.take_left' (u.toBytes_length v), List.drop_left' (u.toBytes_length v),
      u.beNat_toBytes (h v (List.mem_cons_self ..)), ih (fun w hw => h w (List.mem_cons_of_mem _ hw))]

/-- What is read depends on the bytes that are read alone. -/
theorem readValues_append (u : UnitSize) (count : Nat) (bytes more : List Byte)
    (h : bytes.length = count * u.bytes) : readValues u count (bytes ++ more) = readValues u count bytes := by
  induction count generalizing bytes with
  | zero => rfl
  | succ count ih =>
    have hle : u.bytes ≤ bytes.length := by rw [h, Nat.add_mul]; omega
    rw [readValues, readValues, List.take_append_of_le_length hle, List.drop_append_of_le_length hle,
      ih _ (by rw [List.length_drop, h, Nat.add_mul]; omega)]

/-! ## Steps (R70) -/

@[simp] theorem operandCount?_code (op : StepOp) : operandCount? op.code = some op.operands.length := by
  cases op <;> rfl

@[simp] theorem stepOp_code (op : StepOp) : stepOp op.code op.operands = op := by cases op <;> rfl

@[simp] theorem SeqStep.toBytes_length (st : SeqStep) :
    st.toBytes.length = 5 + st.op.operands.length * st.unit.bytes := by
  rw [SeqStep.toBytes, List.length_append, UnitSize.toBytes_flatten_length]
  rfl

theorem SeqStep.toBytes_code (st : SeqStep) (more : List Byte) :
    fieldAt (st.toBytes ++ more) 0 1 = st.op.code := by
  cases h : st.op <;> simp [SeqStep.toBytes, StepOp.code, be1, fieldAt, beNat, h]

theorem SeqStep.toBytes_unit (st : SeqStep) (more : List Byte) :
    fieldAt (st.toBytes ++ more) 4 1 = st.unit.bytes := by
  cases h : st.unit <;> simp [SeqStep.toBytes, be1, be3, fieldAt, beNat, UnitSize.bytes, h]

theorem SeqStep.toBytes_address (st : SeqStep) (more : List Byte) :
    fieldAt (st.toBytes ++ more) 1 3 = st.address % 0x1000000 := by
  simp [SeqStep.toBytes, be1, be3, fieldAt, beNat]
  omega

theorem SeqStep.toBytes_drop (st : SeqStep) (more : List Byte) :
    (st.toBytes ++ more).drop 5 = (st.op.operands.map st.unit.toBytes).flatten ++ more := rfl

/-- The step that the bytes of `st` are read as: its address and its operands cut to their fields. -/
def SeqStep.asRead (st : SeqStep) : SeqStep :=
  { op := stepOp st.op.code
      (readValues st.unit st.op.operands.length (st.op.operands.map st.unit.toBytes).flatten),
    address := st.address % 0x1000000, unit := st.unit }

theorem SeqStep.asRead_eq {st : SeqStep} (haddress : st.address < 0x1000000)
    (hoperands : ∀ v ∈ st.op.operands, v.toNat < 2 ^ (8 * st.unit.bytes)) : st.asRead = st := by
  have h := readValues_toBytes st.unit st.op.operands [] hoperands
  rw [List.append_nil] at h
  rw [SeqStep.asRead, h, stepOp_code, Nat.mod_eq_of_lt haddress]

/-- The walk takes whole steps one by one, and goes on with what follows them (R70). -/
theorem walkSteps_toBytes (steps : List SeqStep) (n : Nat) (more : List Byte) :
    walkSteps (steps.length + n) ((steps.map SeqStep.toBytes).flatten ++ more) =
      match walkSteps n more with
      | .error status => .error status
      | .ok rest => .ok (steps.map SeqStep.asRead ++ rest) := by
  induction steps with
  | nil =>
    rw [List.length_nil, Nat.zero_add, List.map_nil, List.flatten_nil, List.nil_append]
    cases walkSteps n more <;> rfl
  | cons st steps ih =>
    rw [List.length_cons, Nat.add_right_comm, walkSteps, List.map_cons, List.flatten_cons, List.append_assoc,
      if_neg (by rw [List.length_append, SeqStep.toBytes_length]; omega), SeqStep.toBytes_code,
      SeqStep.toBytes_unit, operandCount?_code, UnitSize.ofCode?_bytes]
    simp only []
    rw [if_neg (by rw [List.length_append, SeqStep.toBytes_length]; omega), SeqStep.toBytes_address,
      ← SeqStep.toBytes_length, List.drop_left, ih, SeqStep.toBytes_drop,
      readValues_append _ _ _ _ (UnitSize.toBytes_flatten_length ..)]
    cases walkSteps n more <;> rfl

end Sys2Proof.Machine
end

