-- ==== Sys2Proof/Laws/Scan.lean ====
section
/-! SUPPORT. The frame receiver: it reads a run of bytes as it reads them one by one, and what a frame does to the other
blocks depends neither on the line state nor on the gap timer (R159, R162 to R166). -/

namespace Sys2Proof.Machine

/-- What was held before a run is scanned does not matter: the run holds all that is read. -/
theorem State.scan_holdBytes (held : List Byte) (fuel : Nat) (input : List Byte) (s : State) :
    (s.holdBytes held).scan fuel input = s.scan fuel input := by
  induction fuel generalizing s input with
  | zero => rfl
  | succ fuel ih =>
    unfold State.scan
    split
    · rfl
    · rfl
    · split
      · exact ih (s := s.countOversize) _
      · split
        · rfl
        · dsimp only
          split
          · rfl
          · exact ih (s := s.countBadCrc) _

/-- A scan looks at the bytes from the first SYNC on. -/
theorem State.scan_dropWhile (s : State) (fuel : Nat) (input : List Byte) :
    s.scan (fuel + 1) (input.dropWhile fun b => b ≠ Config.sync) = s.scan (fuel + 1) input := by
  unfold State.scan
  rw [List.dropWhile_idempotent]

theorem dropWhile_sync (l : List Byte) :
    (Config.sync :: l).dropWhile (fun b => decide (b ≠ Config.sync)) = Config.sync :: l := by simp

/-- A run that starts with SYNC and LEN (R162 to R165). -/
theorem State.scan_frame (s : State) (fuel : Nat) (len : Byte) (rest : List Byte) :
    s.scan (fuel + 1) (Config.sync :: len :: rest) =
      if Config.maxBody < len.toNat then s.countOversize.scan fuel rest
      else if rest.length + 2 < frameLength len.toNat then s.holdBytes (Config.sync :: len :: rest)
      else if crcMatches ((Config.sync :: len :: rest).take (frameLength len.toNat)) then
        (s.handOver ((Config.sync :: len :: rest).take (frameLength len.toNat))).scan fuel
          ((Config.sync :: len :: rest).drop (frameLength len.toNat))
      else s.countBadCrc.scan fuel (len :: rest) := by
  rw [State.scan, dropWhile_sync]

/-- Fuel beyond the number of bytes makes no difference. -/
theorem State.scan_fuel {fuel more : Nat} {input : List Byte} (h : input.length < fuel) (s : State) :
    s.scan (fuel + more) input = s.scan fuel input := by
  induction fuel generalizing s input with
  | zero => omega
  | succ fuel ih =>
    rw [Nat.add_right_comm]
    have hlength := List.length_dropWhile_le (fun b => decide (b ≠ Config.sync)) input
    unfold State.scan
    split
    · rfl
    · rfl
    · rename_i sync len rest hdrop
      rw [hdrop] at hlength
      simp only [List.length_cons] at hlength
      split
      · exact ih (by omega) _
      · split
        · rfl
        · dsimp only
          split
          · exact ih (by simp only [List.length_drop, List.length_cons, frameLength]; omega) _
          · exact ih (by simp only [List.length_cons]; omega) _

/-- Bytes that are held are read on when the next byte comes (R162). -/
theorem State.scan_held {n : Nat} {held : List Byte} (h : held.length ≤ n) (s : State) (b : Byte) :
    (s.holdBytes held).receive b = s.scan (n + 2) (held ++ [b]) := by
  obtain ⟨more, rfl⟩ := Nat.exists_eq_add_of_le h
  have hlength : (held ++ [b]).length < held.length + 2 := by simp
  rw [show held.length + more + 2 = held.length + 2 + more by omega, State.scan_fuel hlength]
  unfold State.receive
  dsimp only
  rw [State.scan_holdBytes]
  simp [State.holdBytes]

/-- Reading a run and one byte more is reading the run and then that byte (R162 to R165). -/
theorem State.scan_append (b : Byte) {n : Nat} {input : List Byte} (h : input.length ≤ n) (s : State) :
    s.scan (n + 2) (input ++ [b]) = (s.scan (n + 1) input).receive b := by
  induction n generalizing s input with
  | zero =>
    obtain rfl := List.length_eq_zero_iff.mp (Nat.le_zero.mp h)
    exact (State.scan_held (n := 0) (held := []) (by simp) s b).symm
  | succ n ih =>
    have hdropped := List.length_dropWhile_le (fun b => decide (b ≠ Config.sync)) input
    rw [← State.scan_dropWhile s (n + 2), List.dropWhile_append]
    rw [show s.scan (n + 1 + 1) input = s.scan (n + 1 + 1) (input.dropWhile fun b => b ≠ Config.sync) from
      (State.scan_dropWhile s (n + 1) input).symm]
    have hsync : ∀ x rest, input.dropWhile (fun b => decide (b ≠ Config.sync)) = x :: rest → x = Config.sync := by
      intro x rest hx
      have hhead := List.head_dropWhile_not (fun b => decide (b ≠ Config.sync)) (l := input)
        (by rw [hx]; exact List.cons_ne_nil _ _)
      simp only [hx, List.head_cons] at hhead
      simpa using hhead
    cases hd : input.dropWhile (fun b => decide (b ≠ Config.sync)) with
    | nil =>
      rw [List.isEmpty_nil, if_pos rfl, State.scan_dropWhile s (n + 2)]
      exact (State.scan_held (n := n + 1) (held := []) (by simp) s b).symm
    | cons sync tail =>
      obtain rfl := hsync sync tail hd
      rw [hd] at hdropped
      rw [List.isEmpty_cons, if_neg Bool.false_ne_true]
      cases tail with
      | nil =>
        rw [show s.scan (n + 1 + 1) [Config.sync] = s.holdBytes [Config.sync] by rw [State.scan, dropWhile_sync]]
        exact (State.scan_held (by simp) s b).symm
      | cons len rest =>
        simp only [List.length_cons] at hdropped
        rw [List.cons_append, List.cons_append, State.scan_frame, State.scan_frame]
        have hwhole : Config.sync :: len :: (rest ++ [b]) = (Config.sync :: len :: rest) ++ [b] := rfl
        split
        · exact ih (by omega) _
        · rename_i hover
          by_cases hpart : rest.length + 2 < frameLength len.toNat
          · rw [if_pos hpart]
            refine Eq.trans ?_ (State.scan_held (n := n + 1) (by simp only [List.length_cons]; omega) s b).symm
            rw [List.cons_append, List.cons_append, State.scan_frame, if_neg hover]
          · have hpart' : ¬ (rest ++ [b]).length + 2 < frameLength len.toNat := by
              rw [List.length_append, List.length_singleton]; omega
            rw [if_neg hpart, if_neg hpart', hwhole,
              List.take_append_of_le_length (by simp only [List.length_cons]; omega),
              List.drop_append_of_le_length (by simp only [List.length_cons]; omega)]
            split
            · exact ih (by simp only [List.length_drop, List.length_cons, frameLength]; omega) _
            · exact ih (input := len :: rest) (by simp only [List.length_cons]; omega) _

/-! ## The line state and the gap timer beside the other blocks -/

/-- `s` with another line state and another gap timer. -/
def State.withLine (s : State) (l : LineState) (g : Option Nat) : State :=
  { s with rx := { s.rx with line := l, gapTimer := g } }

namespace State

variable (s : State) (l : LineState) (g : Option Nat)

@[simp] theorem withLine_window (w) : (s.withLine l g).window w = s.window w := rfl
@[simp] theorem withLine_statsOf (w) : (s.withLine l g).statsOf w = s.statsOf w := rfl
@[simp] theorem withLine_watchOf (w) : (s.withLine l g).watchOf w = s.watchOf w := rfl
@[simp] theorem withLine_tagOf (w) : (s.withLine l g).tagOf w = s.tagOf w := rfl
@[simp] theorem withLine_entryOf (w) : (s.withLine l g).entryOf w = s.entryOf w := rfl
@[simp] theorem withLine_decode (w) : (s.withLine l g).decode w = s.decode w := rfl
@[simp] theorem withLine_queueFull : (s.withLine l g).queueFull = s.queueFull := rfl
@[simp] theorem withLine_checkBus (f r) : (s.withLine l g).checkBus f r = s.checkBus f r := rfl
@[simp] theorem withLine_checkWatch (f r) : (s.withLine l g).checkWatch f r = s.checkWatch f r := rfl
@[simp] theorem withLine_windowBytes (w) : (s.withLine l g).windowBytes w = s.windowBytes w := rfl
@[simp] theorem withLine_watchWindow (w) : (s.withLine l g).watchWindow w = s.watchWindow w := rfl
@[simp] theorem withLine_statusBytes (w) : (s.withLine l g).statusBytes w = s.statusBytes w := rfl
@[simp] theorem withLine_gapTurnOf (w) : (s.withLine l g).gapTurnOf w = s.gapTurnOf w := rfl
@[simp] theorem withLine_counterBytes (w) : (s.withLine l g).counterBytes w = s.counterBytes w := rfl
@[simp] theorem withLine_outgoingReply : (s.withLine l g).outgoingReply = s.outgoingReply := rfl
@[simp] theorem withLine_resendTime : (s.withLine l g).resendTime = s.resendTime := rfl
@[simp] theorem withLine_timerAtFrameEnd : (s.withLine l g).timerAtFrameEnd = s.timerAtFrameEnd := rfl
@[simp] theorem withLine_notices : (s.withLine l g).notices = s.notices := rfl
@[simp] theorem withLine_bus : (s.withLine l g).bus = s.bus := rfl
@[simp] theorem withLine_tracker : (s.withLine l g).tracker = s.tracker := rfl
@[simp] theorem withLine_timing : (s.withLine l g).timing = s.timing := rfl
@[simp] theorem withLine_queue : (s.withLine l g).queue = s.queue := rfl
@[simp] theorem withLine_tx : (s.withLine l g).tx = s.tx := rfl
@[simp] theorem withLine_phase : (s.withLine l g).phase = s.phase := rfl

@[simp] theorem withLine_answer (a b c d) : (s.withLine l g).answer a b c d = (s.answer a b c d).withLine l g := rfl
@[simp] theorem withLine_setTag (a b) : (s.withLine l g).setTag a b = (s.setTag a b).withLine l g := rfl
@[simp] theorem withLine_setWatch (a b) : (s.withLine l g).setWatch a b = (s.setWatch a b).withLine l g := rfl
@[simp] theorem withLine_setStats (a b) : (s.withLine l g).setStats a b = (s.setStats a b).withLine l g := rfl
@[simp] theorem withLine_list (a) : (s.withLine l g).list a = (s.list a).withLine l g := by
  unfold State.list
  simp only [withLine_tracker]
  by_cases h : a ∈ s.tracker.outgoing
  · simp only [h, if_true]
  · simp only [h, if_false]
    rfl
@[simp] theorem withLine_store (a b c) : (s.withLine l g).store a b c = (s.store a b c).withLine l g := by
  simp only [State.store, withLine_setTag, withLine_list]
@[simp] theorem withLine_refuse (a b c d) : (s.withLine l g).refuse a b c d = (s.refuse a b c d).withLine l g := by
  simp only [State.refuse, withLine_store]
@[simp] theorem withLine_executed (a b c d) :
    (s.withLine l g).executed a b c d = (s.executed a b c d).withLine l g := by
  simp only [State.executed, withLine_store]
@[simp] theorem withLine_accept (a b c d) : (s.withLine l g).accept a b c d = (s.accept a b c d).withLine l g := rfl
@[simp] theorem withLine_clearTag (a) : (s.withLine l g).clearTag a = (s.clearTag a).withLine l g := rfl
@[simp] theorem withLine_countDuplicate : (s.withLine l g).countDuplicate = (s.countDuplicate).withLine l g := rfl
@[simp] theorem withLine_unqueue (a) : (s.withLine l g).unqueue a = (s.unqueue a).withLine l g := rfl
@[simp] theorem withLine_complete (a b) : (s.withLine l g).complete a b = (s.complete a b).withLine l g := by
  simp only [State.complete, withLine_unqueue, withLine_store]
@[simp] theorem withLine_updateEntry (a) : (s.withLine l g).updateEntry a = (s.updateEntry a).withLine l g := rfl
@[simp] theorem withLine_takeLend : (s.withLine l g).takeLend = (s.takeLend).withLine l g := by
  unfold State.takeLend
  simp only [withLine_bus]
  repeat' split
  all_goals rfl
@[simp] theorem withLine_endTurn : (s.withLine l g).endTurn = (s.endTurn).withLine l g := by
  unfold State.endTurn
  simp only [withLine_bus, withLine_takeLend]
  repeat' split
  all_goals rfl
theorem withLine_tagged (k tb) (new : Tag → State → State)
    (h : ∀ t s, new t (s.withLine l g) = (new t s).withLine l g) :
    (s.withLine l g).tagged k tb new = (s.tagged k tb new).withLine l g := by
  unfold State.tagged
  simp only [withLine_tagOf, withLine_answer, withLine_countDuplicate, withLine_list, withLine_clearTag, h]
  repeat' split
  all_goals rfl
theorem withLine_newBus (k t tb r) : (s.withLine l g).newBus k t tb r = (s.newBus k t tb r).withLine l g := by
  unfold State.newBus
  simp only [withLine_refuse, withLine_checkBus, withLine_accept]
  repeat' split
  all_goals rfl
theorem withLine_newWindowRequest (k t tb r) :
    (s.withLine l g).newWindowRequest k t tb r = (s.newWindowRequest k t tb r).withLine l g := by
  unfold State.newWindowRequest
  simp only [withLine_refuse, withLine_queueFull, withLine_accept]
  repeat' split
  all_goals rfl
theorem withLine_newWatchSet (t tb r) :
    (s.withLine l g).newWatchSet t tb r = (s.newWatchSet t tb r).withLine l g := by
  unfold State.newWatchSet
  simp only [withLine_refuse, withLine_checkWatch, withLine_setWatch, withLine_executed]
  repeat' split
  all_goals rfl
theorem withLine_orphanPoll (a) : (s.withLine l g).orphanPoll a = (s.orphanPoll a).withLine l g := by
  unfold State.orphanPoll
  simp only [withLine_bus, withLine_endTurn]
  repeat' split
  all_goals rfl
theorem withLine_dropWatch (a) : (s.withLine l g).dropWatch a = (s.dropWatch a).withLine l g :=
  withLine_orphanPoll { s.setWatch a none with pollQueue := s.pollQueue.filter (fun y => y ≠ a) } l g a
theorem withLine_newWatchDrop (t tb r) :
    (s.withLine l g).newWatchDrop t tb r = (s.newWatchDrop t tb r).withLine l g := by
  unfold State.newWatchDrop
  simp only [withLine_refuse, withLine_watchOf, withLine_dropWatch, withLine_executed]
  repeat' split
  all_goals rfl
theorem withLine_newCountersClear (t tb r) :
    (s.withLine l g).newCountersClear t tb r = (s.newCountersClear t tb r).withLine l g := by
  unfold State.newCountersClear
  simp only [withLine_refuse, withLine_window, withLine_statsOf, withLine_setStats, withLine_executed]
  repeat' split
  all_goals rfl
theorem withLine_newTimingSet (t tb r) :
    (s.withLine l g).newTimingSet t tb r = (s.newTimingSet t tb r).withLine l g := by
  unfold State.newTimingSet
  cases r with
  | error e => exact withLine_refuse ..
  | ok v => exact withLine_executed { s with timing := v } l g _ _ _ _
theorem withLine_abortEntry (a) : (s.withLine l g).abortEntry a = (s.abortEntry a).withLine l g := by
  unfold State.abortEntry
  simp only [withLine_complete, withLine_gapTurnOf, withLine_endTurn, withLine_updateEntry]
  repeat' split
  all_goals rfl
theorem withLine_cutLinkTurn : (s.withLine l g).cutLinkTurn = (s.cutLinkTurn).withLine l g := by
  unfold State.cutLinkTurn
  simp only [withLine_bus, withLine_endTurn]
  repeat' split
  all_goals rfl
theorem withLine_restarted : (s.withLine l g).restarted = (s.restarted).withLine l g := by
  unfold State.restarted
  rw [withLine_cutLinkTurn]
  rfl
theorem withLine_take (k tb : Byte) (body : List Byte) (p : LinkState) :
    (s.withLine l g).take k tb body p = (s.take k tb body p).withLine l g := by
  unfold State.take
  split
  · rfl
  · exact withLine_tagged _ _ _ _ _ _ fun _ _ => withLine_newBus ..
  · exact withLine_tagged _ _ _ _ _ _ fun _ _ => withLine_newBus ..
  · exact withLine_tagged _ _ _ _ _ _ fun _ _ => withLine_newBus ..
  · exact withLine_tagged _ _ _ _ _ _ fun _ _ => withLine_newWindowRequest ..
  · exact withLine_tagged _ _ _ _ _ _ fun _ _ => withLine_newWindowRequest ..
  · unfold takeWindowQuery
    simp only [withLine_windowBytes, withLine_answer]
    repeat' split
    all_goals rfl
  · exact withLine_tagged _ _ _ _ _ _ fun _ _ => withLine_newWatchSet ..
  · exact withLine_tagged _ _ _ _ _ _ fun _ _ => withLine_newWatchDrop ..
  · unfold takeWatchQuery
    simp only [withLine_watchOf, withLine_watchWindow, withLine_answer]
    repeat' split
    all_goals rfl
  · unfold takeCountersRead
    simp only [withLine_window, withLine_counterBytes, withLine_answer]
    repeat' split
    all_goals first | rfl | simp_all
  · exact withLine_tagged _ _ _ _ _ _ fun _ _ => withLine_newCountersClear ..
  · unfold takeHistoryRead
    simp only [withLine_window, withLine_statsOf, withLine_answer]
    repeat' split
    all_goals first | rfl | simp_all
  · exact withLine_tagged _ _ _ _ _ _ fun _ _ => withLine_newTimingSet ..
  · unfold takeStatus
    simp only [withLine_statusBytes, withLine_answer]
    repeat' split
    all_goals rfl
  · unfold takeIdentify
    simp only [withLine_answer]
    repeat' split
    all_goals rfl
  · unfold takeNoticeAck
    simp only [withLine_notices, withLine_resendTime, withLine_timerAtFrameEnd, withLine_answer]
    split
    · rfl
    · rename_i n _
      by_cases h : (s.notices.queue.any fun x => decide (x.number = n)) = true
      · simp only [h, if_true]
        rfl
      · simp only [h]
        rfl
  · unfold takeAbort
    simp only [withLine_entryOf, withLine_abortEntry, withLine_answer]
    repeat' split
    all_goals rfl
  · unfold takeRestart
    simp only [withLine_restarted, withLine_queue, withLine_answer]
    repeat' split
    all_goals rfl
@[simp] theorem withLine_takeImmediate (a b) :
    (s.withLine l g).takeImmediate a b = (s.takeImmediate a b).withLine l g := rfl
@[simp] theorem withLine_takeReply (a) : (s.withLine l g).takeReply a = (s.takeReply a).withLine l g := rfl
@[simp] theorem withLine_takeNotice (a) : (s.withLine l g).takeNotice a = (s.takeNotice a).withLine l g := rfl
theorem withLine_transmit : (s.withLine l g).transmit = s.transmit.withLine l g := by
  unfold State.transmit
  simp only [withLine_tx, withLine_tracker, withLine_notices, withLine_outgoingReply, withLine_takeImmediate,
    withLine_takeReply, withLine_takeNotice]
  by_cases h : s.tx.frame.isSome = true
  · simp only [h, if_true]
  · simp only [h]
    cases s.tracker.immediate
    · cases s.outgoingReply <;> cases s.notices.due <;> try rfl
      cases s.tx.lastServed <;> rfl
    · rfl
theorem withLine_arrive (k tb : Byte) (body : List Byte) :
    (s.withLine l g).arrive k tb body = (s.arrive k tb body).withLine l g := by
  unfold State.arrive
  rw [← withLine_take]
  rfl
theorem withLine_handOver (frame : List Byte) :
    (s.withLine l g).handOver frame = (s.handOver frame).withLine l g := by
  unfold State.handOver
  rw [← withLine_transmit, ← withLine_arrive]
  rfl

/-- A scan does not look at the line state or at the gap timer. -/
theorem withLine_scan (fuel : Nat) (input : List Byte) :
    (s.withLine l g).scan fuel input = (s.scan fuel input).withLine l g := by
  induction fuel generalizing s input with
  | zero => rfl
  | succ n ih =>
    unfold State.scan
    split
    · rfl
    · rfl
    · split
      · exact ih (s := s.countOversize) _
      · split
        · rfl
        · dsimp only
          split
          · rw [← ih]
            rw [withLine_handOver]
          · exact ih (s := s.countBadCrc) _

end State

end Sys2Proof.Machine
end

