-- ==== Sys2Proof/Tests/Slice0.lean ====
section
/-! SUPPORT. The model's own tests: the checks of WellFormed, single steps against the worked examples of the spec, and
for every obligation with hypotheses a state and operands that meet them. -/

namespace Sys2Proof.Tests

open Sys2Proof Sys2Proof.Machine

/-! ## Small states -/

/-- The state after a command; every command answers one. -/
def after (c : Instr) (s : State) : State :=
  match exec c s with
  | .next t => t
  | .fault _ => s
  | .refused _ => s

/-- Running, every table empty, a FREE transmitter with nothing waiting. -/
def quiet : State := State.initial 0#2 false 0 []

/-- A long frame is on TXD, so that what a command places stays on its list. -/
def sendingFrame : TxFrame := { bytes := [0xC3#8], notice := none, remaining := 1250000 }

def loud : State := { quiet with tx := { frame := some sendingFrame, lastServed := .notice } }

/-- The window of the SEQUENCE example of spec/04_bus_requests.md: LOW, select line 2, retry limit 2. -/
def fields : WindowFields :=
  { base := 0x050000, sizeExp := 8, select := 2, lane := .low, rights := .readWrite, setup := 1, strobe := 4,
    hold := 1, readyMode := .ready, readyLimit := 16, releaseGap := 2, retryLimit := 2, retryBackoff := 50,
    declareCount := 2, clearCount := 1, severeThreshold := 4, notifyHealth := true, notifySevere := true }

def opened : Window := { isOpen := true, fields := fields, health := .fresh }

/-- Window 6 is OPEN. -/
def win : State := loud.setWindow 6 opened

def failedWindow : Window := { opened with health := { state := .failed, failureRun := 2, successRun := 0 } }

/-- A link entry of tag 4, phase 1, bound to window 6. -/
def entryOf (r : LinkRequest) (state : EntryState) : LinkEntry :=
  { tag := 3, phase := true, force := false, window := 6, request := r,
    deadline := some { time := 50000000, passed := false }, state := state, retryCount := 0, retryTime := none,
    stopRequested := false, done := 0, accessIndex := 0, held := 0, results := [] }

def readOne : LinkRequest := .read 0x050010 .two 1 .increment

/-- `win` with one entry queued, its tag PENDING. -/
def queued (e : LinkEntry) : State := { win with queue := [e] }.setTag e.tag (.pending e.phase)

def access : Access :=
  { window := 6, address := 0x050010, select := 2, lowLane := true, highLane := false, dir := .read, data := 0,
    profile := fields.profile, elapsed := 0 }

def linkTurn : Turn := { holder := .link 3, window := 6, pollIndex := 0, pollHeld := 0 }

/-- The entry's turn is in an access. -/
def inAccess (e : LinkEntry) : State :=
  { queued e with bus := { Bus.reset with state := .access access, turn := some linkTurn } }

/-- The watch entry of the tests: a one-byte MATCH in window 6. -/
def config : WatchConfig :=
  { address := 0x050020, unit := .one, mode := .matches, mask := 0xFF, reference := 1, period := 2, setCount := 2,
    clearCount := 1, notifyRaise := true, notifyClear := true, notifyChange := true }

def watched : WatchEntry := { WatchEntry.fresh config with outstanding := true }

/-- Watch entry 9 has a poll request waiting. -/
def polling : State := { win.setWatch 9 (some watched) with pollQueue := [9] }

def pollTurn : Turn := { holder := .poll 9, window := 6, pollIndex := 0, pollHeld := 0 }

def inPoll : State := { polling with bus := { Bus.reset with state := .access access, turn := some pollTurn } }

def twelve : List LinkEntry := (List.range 12).map fun _ => entryOf readOne .waiting

def notice (number : Nat) (sent : Bool) : Notice :=
  { number := number, kind := .boot, subject := 0, data := [0x01#8], lost := 0, sent := sent }

/-- Notices 65535 and 1 are queued, the oldest sent, its resend timer running. -/
def noticed : State :=
  { loud with
    notices := { NoticeUnit.empty with queue := [notice 65535 true, notice 1 false], next := 2,
                                       resendTimer := some 5 } }

/-- READY is low through the longest strobe. -/
def never : List Bool := []

/-- READY is high at the end of strobe period 4. -/
def atFour : List Bool := [false, false, false, true]

/-! ## WellFormed: an ill-formed term for each check -/

def body240 : List Byte := List.replicate 240 0#8
def body241 : List Byte := List.replicate 241 0#8

set_option maxRecDepth 16384 in
theorem test_wellFormed_body240 : Kind.all.all (fun k => (k.command 0x01#8 body240).wellFormed) = true := by decide
set_option maxRecDepth 16384 in
theorem test_illFormed_body241 : Kind.all.all (fun k => !(k.command 0x01#8 body241).wellFormed) = true := by decide
set_option maxRecDepth 16384 in
theorem test_illFormed_unknownKind_long : (Instr.unknownKind 0x7F#8 0x01#8 body241).wellFormed = false := by decide
theorem test_illFormed_unknownKind_listed :
    Kind.all.all (fun k => !(Instr.unknownKind k.code 0x01#8 []).wellFormed) = true := by decide
theorem test_wellFormed_unknownKind : (Instr.unknownKind 0x80#8 0x01#8 []).wellFormed = true := by decide
theorem test_illFormed_ready :
    (Instr.accessEnd (List.replicate 4097 false) false 0#16).wellFormed = false := by
  rw [Instr.wellFormed, List.length_replicate]
  rfl
theorem test_wellFormed_ready : (Instr.accessEnd (List.replicate 4096 false) false 0#16).wellFormed = true := by
  rw [Instr.wellFormed, List.length_replicate]
  rfl

/-! ## No word of the table spells a command -/

theorem test_decode_none : decodeTableWord 8 0x10 = none := by decide
theorem test_withFetchWord : State.reset.withFetchWord 16 0x1234 = State.reset := by rfl

/-! ## Worked examples of the spec -/

set_option maxRecDepth 16384 in
/-- The CRC of a short frame, byte by byte (spec/10_supervisory_link.md). -/
theorem test_crc :
    crc16 [0x00#8] = 0xE1F0#16 ∧ crc16 [0x00#8, 0x51#8] = 0x57DB#16 ∧
      frameBytes 0x51#8 0x00#8 [] = [0xC3#8, 0x00#8, 0x51#8, 0x00#8, 0xF1#8, 0x12#8] := by decide

set_option maxRecDepth 16384 in
/-- The first frame after a power-on (R172). -/
theorem test_powerOn :
    (after (.powerOn 2#2) quiet).tx.frame.map (fun f => f.bytes.take 11) =
      some [0xC3#8, 0x07#8, 0xF0#8, 0x00#8, 0x00#8, 0x01#8, 0x01#8, 0x00#8, 0x00#8, 0x00#8, 0x01#8] := by decide

/-- SYNC as a character on TXD: start bit, bits 0 to 7 of C3h, stop bit; and TXD idle (R158, R169). -/
theorem test_txd :
    ((List.range 11).map fun i =>
        ({ bytes := [0xC3#8], notice := none, remaining := (10 - i) * 15625 } : TxFrame).level (bitTime 2#2)) =
      [false, true, true, false, false, false, false, true, true, true, true] ∧ State.reset.txd = true := by decide

/-- After a reset by RSTn the last body byte is 02h (R172), and a master that asserts LREQn is lent the bus (R40). -/
theorem test_rstnWithdrawn :
    ((after (.rstnWithdrawn 0#2) (after .lreqnAsserted (after .rstnAsserted quiet))).tx.frame.map
        (fun f => f.bytes.getD 10 0) = some 0x02#8) ∧
      (after (.rstnWithdrawn 0#2) (after .lreqnAsserted (after .rstnAsserted quiet))).bus.state = .lent := by decide

/-- A READ reply on the wire (R171): two units done, then NO_READY. -/
theorem test_readReply :
    ({ entryOf (.read 0x070100 .two 3 .increment) .active with
        tag := 4, done := 2,
        results := [{ unit := .two, value := 0x2010 }, { unit := .two, value := 0x4030 }] } : LinkEntry).reply
        .noReady =
      { kind := 0x90#8, tagByte := 0x15#8, body := [0x0D#8, 0x02#8, 0x20#8, 0x10#8, 0x40#8, 0x30#8] } := by decide

set_option maxRecDepth 16384 in
/-- The last byte of the STATUS frame of the CRC example hands it over: the answer goes to TXD (R166, R168). -/
theorem test_byteArrival :
    ((after (.byteArrival 0x12#8 true)
        { quiet with rx := { Receiver.reset with line := .looking,
                                                 held := [0xC3#8, 0x00#8, 0x51#8, 0x00#8, 0xF1#8] } }).tx.frame.map
      fun f => f.bytes.getD 2 0) = some 0xD1#8 := by decide

set_option maxRecDepth 16384 in
/-- The false SYNC of spec/10_supervisory_link.md: the rescan of 11 held bytes finds frame B's SYNC and holds it. -/
theorem test_rescan :
    (after (.byteArrival 0x00#8 true)
      { loud with rx := { Receiver.reset with
          line := .looking, held := [0xC3#8, 0x05#8, 8#8, 9#8, 10#8, 0x61#8, 0x62#8, 0xC3#8, 0x00#8, 0x51#8],
          gapTimer := some 5 } }).rx =
      { Receiver.reset with line := .looking, held := [0xC3#8, 0x00#8, 0x51#8, 0x00#8], badCrc := 1,
                            gapTimer := some (32 * 125000) } := by decide

theorem test_gapTimerExpiry :
    (after .gapTimerExpiry { loud with rx := { Receiver.reset with held := [0xC3#8], gapTimer := some 0 } }).rx =
      { Receiver.reset with truncated := 1 } := by decide

theorem test_receiverStart : (after .receiverStart quiet).rx.line = .looking := by decide
theorem test_rxdHighAfterBreak :
    (after .rxdHighAfterBreak { quiet with rx := { Receiver.reset with line := .waitHigh } }).rx.line =
      .looking := by decide

/-- The READ of the tests is queued, tag 4 phase 1 (R44, R68). -/
theorem test_read :
    (after (.read 0x14#8 [0x05#8, 0x00#8, 0x10#8, 0x02#8, 0x01#8, 0x00#8]) win).queue =
      [entryOf readOne .waiting] := by decide

theorem test_write :
    ((after (.write 0x14#8 [0x05#8, 0x00#8, 0x10#8, 0x02#8, 0x01#8, 0x01#8, 0x12#8, 0x34#8]) win).queue.map
      LinkEntry.request) = [.write 0x050010 .two .fixed [0x1234]] := by decide

/-- A unit size that holds no valid code passes the length check of a WRITE and fails its field check, also in a body
that ends right behind it; a body that ends before it is no right length (R69, R170; notes/assumptions/9.md). -/
theorem test_write_badUnit :
    Kind.write.busBody 0x14#8 [0x05#8, 0x00#8, 0x10#8, 0x03#8] = .error .badField ∧
      Kind.write.busBody 0x14#8 [0x05#8, 0x00#8, 0x10#8, 0x00#8, 0x00#8] = .error .badField ∧
      Kind.write.busBody 0x14#8 [0x05#8, 0x00#8, 0x10#8] = .error .badLength ∧
      Kind.write.busBody 0x14#8 [0x05#8, 0x00#8, 0x10#8, 0x01#8] = .error .badLength := by decide

/-- A WRITE that is not permitted is refused ACCESS_DENIED with progress 00h (R4, R147). -/
theorem test_write_refused :
    (after (.write 0x14#8 [0x05#8, 0x00#8, 0x10#8, 0x01#8, 0x00#8, 0x01#8, 0x12#8])
      (loud.setWindow 6 { opened with fields := { fields with rights := .readOnly } })).tagOf 3 =
      .done true { kind := 0x91#8, tagByte := 0x14#8, body := [0x09#8, 0x00#8] } := by decide

/-- The four steps of the SEQUENCE example (R70). -/
theorem test_sequence :
    ((after (.sequence 0x09#8
        (be1 4 ++ (be1 2 ++ be3 0x050010 ++ be1 2 ++ be2 0xFFFE ++ be2 0) ++
          (be1 1 ++ be3 0x050014 ++ be1 1 ++ be1 0x5A) ++
          (be1 3 ++ be3 0x050015 ++ be1 1 ++ be1 0x80 ++ be1 0x80) ++ (be1 0 ++ be3 0x050018 ++ be1 2))) win).queue.map
      LinkEntry.request) =
      [.sequence
        [{ op := .modify 0xFFFE 0, address := 0x050010, unit := .two },
         { op := .write 0x5A, address := 0x050014, unit := .one },
         { op := .test 0x80 0x80, address := 0x050015, unit := .one },
         { op := .read, address := 0x050018, unit := .two }]] := by decide

theorem test_windowSet :
    ((after (.windowSet 0x01#8 (be1 7 ++ fields.toBytes)) loud).queue.map LinkEntry.request) =
      [.windowSet fields] := by decide
theorem test_windowClose : ((after (.windowClose 0x01#8 [6#8]) win).queue.map LinkEntry.window) = [6] := by decide
theorem test_windowQuery :
    ((after (.windowQuery 0x00#8 [6#8]) win).tracker.immediate.map fun r => (r.kind, r.body.take 3, r.body.length)) =
      [(0xA2#8, [0x00#8, 0x06#8, 0x01#8], 30)] := by decide
theorem test_watchSet :
    (after (.watchSet 0x01#8
        (be1 9 ++ be3 0x050020 ++ be1 1 ++ be1 0 ++ be4 0xFF ++ be4 1 ++ be1 2 ++ be1 2 ++ be1 1 ++ be1 7))
      win).watchOf 9 = some (WatchEntry.fresh config) := by decide
theorem test_watchDrop :
    (after (.watchDrop 0x01#8 [9#8]) polling).watchOf 9 = none ∧
      (after (.watchDrop 0x01#8 [9#8]) polling).pollQueue = [] := by decide
theorem test_watchQuery_empty :
    (after (.watchQuery 0x00#8 [9#8]) win).tracker.immediate = [plainReply .watchQuery 0x00#8 .slotEmpty] := by decide
theorem test_countersRead_closed :
    (after (.countersRead 0x00#8 [5#8]) win).tracker.immediate = [plainReply .countersRead 0x00#8 .windowClosed] := by
  decide
theorem test_countersClear :
    ((after (.countersClear 0x01#8 [6#8])
      (win.setStats 6 { WindowStats.zero with counters := { Counters.zero with faults := 3 } })).statsOf 6) =
      WindowStats.zero := by decide
theorem test_historyRead :
    (after (.historyRead 0x00#8 [6#8, 8#8]) win).tracker.immediate =
      [{ kind := 0xC2#8, tagByte := 0x00#8, body := [0x00#8, 0x00#8] }] := by decide
theorem test_timingSet :
    (after (.timingSet 0x01#8 [0x14#8, 0x00#8, 0x00#8, 0x00#8, 0x32#8]) loud).timing =
      { Timing.reset with lifetime := 0, resendInterval := 50 } := by decide
theorem test_status :
    (after (.status 0x00#8 []) noticed).tracker.immediate.map (fun r => r.body.take 4) =
      [[0x00#8, 0x00#8, 0x00#8, 0x02#8]] := by decide
theorem test_identify :
    (after (.identify 0xC0#8 []) loud).tracker.immediate = [plainReply .identify 0xC0#8 .badField] := by decide

/-- Numbers wrap: an acknowledgement of 1 removes 65535 too (R138). -/
theorem test_noticeAck : (after (.noticeAck 0x00#8 (be2 1)) noticed).notices.queue = [] := by decide
theorem test_abort :
    (after (.abort 0x00#8 [4#8]) (queued (entryOf readOne .waiting))).tagOf 3 =
      .done true { kind := 0x90#8, tagByte := 0x14#8, body := [0x10#8, 0x00#8] } := by decide
theorem test_restart :
    (after (.restart 0x00#8 []) (queued (entryOf readOne .waiting))).tracker.immediate =
      [{ kind := 0xE2#8, tagByte := 0x00#8, body := [0x00#8, 0x01#8] }] := by decide
theorem test_unknownKind :
    (after (.unknownKind 0x80#8 0x05#8 []) loud).tracker.immediate =
      [{ kind := 0x00#8, tagByte := 0x05#8, body := [0x01#8] }] := by decide
theorem test_grant :
    (after .grant (queued (entryOf readOne .waiting))).bus.state = .access access := by decide

/-- The second byte of the unit is the high one on a LOW window (R12). -/
theorem test_accessEnd :
    (after (.accessEnd atFour false 0x0012#16)
      (inAccess { entryOf readOne .active with accessIndex := 1, held := 0x37 })).tagOf 3 =
      .done true { kind := 0x90#8, tagByte := 0x14#8, body := [0x00#8, 0x01#8, 0x12#8, 0x37#8] } := by decide

/-- The second failure declares the window FAILED (R86, R87). -/
theorem test_accessEnd_declares :
    ((after (.accessEnd never false 0#16)
      ((inAccess (entryOf readOne .active)).setWindow 6
        { opened with health := { state := .suspect, failureRun := 1, successRun := 0 } })).notices.queue.map
      Notice.kind) = [.windowFailed] := by decide
/-- RDn of a READY-mode access (setup 1, S 4, L 16), period by period: asserted from the end of the setup until READY is
seen, or until the longest strobe is over, and withdrawn in the hold (R24 to R27, R41). -/
theorem test_strobe :
    ((List.range 7).map fun n => ({ access with elapsed := n } : Access).strobe atFour) =
        [false, true, true, true, true, false, false] ∧
      ((List.range 19).map fun n => ({ access with elapsed := n } : Access).strobe never) =
        [false] ++ List.replicate 16 true ++ [false, false] := by decide
theorem test_gapEnd :
    (after .gapEnd { queued (entryOf readOne .active) with
      bus := { Bus.reset with state := .gap, turn := some linkTurn } }).bus.state = .access access := by decide
theorem test_retryWaitEnd :
    (after .retryWaitEnd { queued (entryOf readOne .active) with
      bus := { Bus.reset with state := .retryWait 0, turn := some linkTurn } }).bus.state = .access access := by decide
theorem test_backoffEnd :
    (after (.backoffEnd 3) (queued { entryOf readOne .deferred with retryTime := some 7 })).queue =
      [entryOf readOne .deferred] := by decide
theorem test_deadline :
    (after (.deadline 3) (queued (entryOf readOne .waiting))).tagOf 3 =
      .done true { kind := 0x90#8, tagByte := 0x14#8, body := [0x0F#8, 0x00#8] } := by decide
theorem test_windowRequestTakesEffect :
    (after (.windowRequestTakesEffect 6) (queued (entryOf .windowClose .waiting))).window 6 =
      { opened with isOpen := false } := by decide
theorem test_lreqn :
    (after .lreqnAsserted quiet).pins [] = { drive := none, lgnt := true } ∧
      (after .lreqnWithdrawn (after .lreqnAsserted quiet)).bus.state = .reclaim 4 := by decide
theorem test_lendTaken :
    (after .lendTaken { quiet with bus := { Bus.reset with state := .gap, lendPending := true } }).bus.state =
      .lent := by decide
theorem test_reclaimEnd :
    (after .reclaimEnd { quiet with bus := { Bus.reset with state := .reclaim 0 } }).bus = Bus.reset := by decide
theorem test_pollTick :
    (after .pollTick (win.setWatch 9 (some (WatchEntry.fresh config)))).pollQueue = [9] := by decide
theorem test_intervalEnd :
    ((after .intervalEnd
      (win.setStats 6 { WindowStats.zero with tallies := { Tallies.zero with faults := 4 } })).statsOf 6).ring =
      [{ number := 1, tallies := { ok := 0, faults := 4, defers := 0, exhausts := 0 }, errored := true, severe := true,
         unavailable := false }] := by decide
theorem test_resendTimerExpiry : (after .resendTimerExpiry noticed).notices.resendDue = true := by decide
theorem test_frameEnd :
    (after .frameEnd { noticed with tx := { frame := some { sendingFrame with notice := some 65535 },
                                            lastServed := .notice } }).notices.resendTimer = some 25000000 := by decide

/-! ## The hypotheses of the obligations are met

One theorem per obligation with hypotheses, each clause at a boundary of its range. -/

theorem witness_StepTakesFrontCommand : ({ quiet with pending := [.grant] } : State).pending = .grant :: [] := by decide

/-- A bus in a wait, with the release-gap record on its last period. -/
def lastGap (state : BusState) : State :=
  { quiet with bus := { Bus.reset with state := state, gapRecord := some { select := 2, remaining := 1 } } }

theorem witness_EmptyQueueLetsTimePass :
    (({ quiet with pollTimer := 0 } : State).pending = [] ∧
      ({ quiet with pollTimer := 0 } : State).dueEvent = some .pollTick) ∧
    (quiet.pending = [] ∧ quiet.phase = .running ∧ quiet.dueEvent = none) ∧
    ((lastGap .idle).dueEvent = none ∧ (lastGap .idle).bus.gapRecord = some { select := 2, remaining := 1 } ∧
      (lastGap .idle).bus.state = .idle) ∧
    (lastGap (.reclaim 1)).dueEvent = none ∧ (lastGap (.reclaim 1)).bus.state = .reclaim 1 ∧
    (lastGap (.retryWait 1)).dueEvent = none ∧ (lastGap (.retryWait 1)).bus.state = .retryWait 1 ∧
    ((inAccess (entryOf readOne .active)).dueEvent = none ∧
      (inAccess (entryOf readOne .active)).bus.state = .access access) ∧
    (noticed.pending = [] ∧ noticed.phase = .running ∧ noticed.dueEvent = none ∧
      noticed.notices.resendTimer = some 5 ∧ noticed.tx.frame = some sendingFrame) := by decide

theorem witness_ResetEndBoots :
    quiet.phase = .running ∧ (after .rstnAsserted quiet).phase = .inReset .resetPin ∧
      (after (.powerOn 0#2) (after .rstnAsserted quiet)).phase = .inReset .powerOn := by decide

theorem witness_ResetPinCutsEverything : (inAccess (entryOf readOne .active)).phase = .running := by decide

theorem witness_NothingActsInReset :
    (after .rstnAsserted quiet).phase = .inReset .resetPin ∧ (∀ rate, Instr.lreqnAsserted ≠ .powerOn rate) ∧
      (∀ rate, Instr.lreqnAsserted ≠ .rstnWithdrawn rate) := ⟨by decide, nofun, nofun⟩

/-- The receiver takes characters and holds these bytes. -/
def holding (held : List Byte) : State :=
  { loud with rx := { Receiver.reset with line := .looking, held := held, gapTimer := some 1 } }

theorem witness_ReceiverWaits :
    (quiet.phase = .running ∧ quiet.rx.line = .waitIdle) ∧
    ({ quiet with rx := { Receiver.reset with line := .waitHigh } } : State).rx.line = .waitHigh ∧
    quiet.rx.line ≠ .looking ∧ (holding [0xC3#8]).rx.gapTimer = some 1 := by decide

set_option maxRecDepth 16384 in
theorem witness_ReceiverDiscards :
    ((holding []).phase = .running ∧ (holding []).rx.line = .looking ∧ (holding []).rx.held = []) ∧
    ((holding [0xC3#8, 0x00#8, 0x51#8, 0x00#8, 0xF1#8]).rx.held ++ [0x13#8] =
        0xC3#8 :: 0x00#8 :: [0x51#8, 0x00#8, 0xF1#8, 0x13#8] ∧
      (0x00#8).toNat ≤ 240 ∧ [0x51#8, 0x00#8, 0xF1#8, 0x13#8].length = (0x00#8).toNat + 4 ∧
      crcMatches (0xC3#8 :: 0x00#8 :: [0x51#8, 0x00#8, 0xF1#8, 0x13#8]) = false ∧
      ∀ x ∈ 0x00#8 :: [0x51#8, 0x00#8, 0xF1#8, 0x13#8], x ≠ 0xC3#8) := by decide

set_option maxRecDepth 16384 in
/-- A byte held in LENGTH, and the last but one of a frame; and rescans that find a SYNC as the last byte, with a part
of a frame behind it, and with a good frame behind it. -/
theorem witness_ReceiverDiscards_rescan :
    ((holding [0xC3#8]).rx.held ++ [0xF0#8] = 0xC3#8 :: 0xF0#8 :: [] ∧ (0xF0#8).toNat ≤ 240) ∧
    ((holding [0xC3#8, 0x00#8, 0x51#8, 0x00#8]).rx.held ++ [0xF1#8] =
        0xC3#8 :: 0x00#8 :: [0x51#8, 0x00#8, 0xF1#8] ∧ [0x51#8, 0x00#8, 0xF1#8].length < (0x00#8).toNat + 4) ∧
    (crcMatches (0xC3#8 :: 0x00#8 :: [0x51#8, 0x00#8, 0xF1#8, 0xC3#8]) = false ∧
      0x00#8 :: [0x51#8, 0x00#8, 0xF1#8, 0xC3#8] = [0x00#8, 0x51#8, 0x00#8, 0xF1#8] ++ 0xC3#8 :: [] ∧
      ∀ x ∈ [0x00#8, 0x51#8, 0x00#8, 0xF1#8], x ≠ 0xC3#8) ∧
    (crcMatches (0xC3#8 :: 0x01#8 :: [0x00#8, 0xC3#8, 0x00#8, 0x51#8, 0x00#8]) = false ∧
      0x01#8 :: [0x00#8, 0xC3#8, 0x00#8, 0x51#8, 0x00#8] =
        [0x01#8, 0x00#8] ++ 0xC3#8 :: 0x00#8 :: [0x51#8, 0x00#8] ∧
      [0x51#8, 0x00#8].length < (0x00#8).toNat + 4) ∧
    (crcMatches (0xC3#8 :: 0x03#8 :: [0x00#8, 0xC3#8, 0x00#8, 0x51#8, 0x00#8, 0xF1#8, 0x12#8]) = false ∧
      0x03#8 :: [0x00#8, 0xC3#8, 0x00#8, 0x51#8, 0x00#8, 0xF1#8, 0x12#8] =
        [0x03#8, 0x00#8] ++ 0xC3#8 :: [0x00#8, 0x51#8, 0x00#8, 0xF1#8, 0x12#8] ∧
      0xC3#8 :: [0x00#8, 0x51#8, 0x00#8, 0xF1#8, 0x12#8] = frameBytes Kind.status.code 0x00#8 []) := by decide

/-- The held bytes of a frame with a wrong CRC, a byte short of its end. -/
def badFrame (len : Byte) (rest : List Byte) : Prop :=
  (holding (0xC3#8 :: len :: rest.dropLast)).settled ∧ rest.length = len.toNat + 4 ∧
    crcMatches (0xC3#8 :: len :: rest) = false

set_option maxRecDepth 16384 in
/-- Rescans that find an OVERSIZE, a second frame with a wrong CRC, and a good frame with a byte behind it. -/
theorem witness_ReceiverDiscards_fed :
    badFrame 0x01#8 [0x00#8, 0xC3#8, 0xF1#8, 0x51#8, 0x00#8] ∧
    badFrame 0x03#8 [0x00#8, 0xC3#8, 0x00#8, 0x51#8, 0x00#8, 0xF1#8, 0x13#8] ∧
    badFrame 0x04#8 [0x00#8, 0xC3#8, 0x00#8, 0x51#8, 0x00#8, 0xF1#8, 0x12#8, 0xC3#8] :=
  ⟨⟨Or.inl rfl, by decide, by decide⟩, ⟨Or.inl rfl, by decide, by decide⟩, ⟨Or.inl rfl, by decide, by decide⟩⟩

set_option maxRecDepth 16384 in
/-- The OVERSIZE and the second wrong CRC are counted beside the first; the byte behind the good frame is held (R163,
R165). -/
theorem test_rescanCounts :
    let counts (s : State) := (s.rx.badCrc, s.rx.oversize, s.rx.held, s.tracker.immediate.length)
    counts (after (.byteArrival 0x00#8 true) (holding [0xC3#8, 0x01#8, 0x00#8, 0xC3#8, 0xF1#8, 0x51#8])) =
        (1, 1, [], 0) ∧
    counts (after (.byteArrival 0x13#8 true)
        (holding [0xC3#8, 0x03#8, 0x00#8, 0xC3#8, 0x00#8, 0x51#8, 0x00#8, 0xF1#8])) = (2, 0, [], 0) ∧
    counts (after (.byteArrival 0xC3#8 true)
        (holding [0xC3#8, 0x04#8, 0x00#8, 0xC3#8, 0x00#8, 0x51#8, 0x00#8, 0xF1#8, 0x12#8])) =
        (1, 0, [0xC3#8], 1) := by decide

theorem witness_OversizeDiscards :
    (holding [0xC3#8]).phase = .running ∧ (holding [0xC3#8]).rx.line = .looking ∧
      (holding [0xC3#8]).rx.held = [0xC3#8] ∧ 240 < (0xF1#8).toNat := by decide

set_option maxRecDepth 16384 in
theorem witness_ReceivedFrameIsItsCommand :
    (holding [0xC3#8, 0x00#8, 0x51#8, 0x00#8, 0xF1#8]).phase = .running ∧
    (holding [0xC3#8, 0x00#8, 0x51#8, 0x00#8, 0xF1#8]).rx.line = .looking ∧ ([] : List Byte).length ≤ 240 ∧
    (holding [0xC3#8, 0x00#8, 0x51#8, 0x00#8, 0xF1#8]).rx.held ++ [0x12#8] =
      frameBytes Kind.status.code 0x00#8 [] ∧ Kind.status.code = 0x51#8 := by decide

def someReply : Reply := plainReply .timingSet 0x01#8 .ok

/-- A FREE transmitter with the given sources and last served. -/
def choosing (immediate : List Reply) (listed : Bool) (notices : List Notice) (served : Served) : State :=
  { quiet.setTag 0 (.done false someReply) with
    tx := { frame := none, lastServed := served }, notices := { NoticeUnit.empty with queue := notices } }.list 0 |>
    fun s => { s with tracker := { s.tracker with immediate := immediate,
                                                  outgoing := if listed then [0] else [] } }

theorem witness_TransmitterChoice :
    ((choosing [someReply] true [notice 1 false] .notice).tx.frame = none ∧
      (choosing [someReply] true [notice 1 false] .notice).tracker.immediate = someReply :: []) ∧
    ((choosing [] true [] .replyList).outgoingReply = some someReply ∧
      (choosing [] true [] .replyList).notices.due = none) ∧
    ((choosing [] true [notice 1 false] .notice).outgoingReply = some someReply ∧
      (choosing [] true [notice 1 false] .notice).tx.lastServed = .notice) ∧
    ((choosing [] false [notice 1 false] .notice).outgoingReply = none ∧
      (choosing [] false [notice 1 false] .notice).notices.due = some (notice 1 false)) ∧
    ((choosing [] true [notice 1 false] .replyList).notices.due = some (notice 1 false) ∧
      (choosing [] true [notice 1 false] .replyList).tx.lastServed = .replyList) := by decide

/-- DEAF and the empty queue, a resend due, a first unsent notice behind a sent one, and every notice sent (R134). -/
theorem witness_TransmitterChoice_due :
    ({ noticed.notices with link := .deaf } : NoticeUnit).link = .deaf ∧ NoticeUnit.empty.queue = [] ∧
    (noticed.notices.link = .live ∧ ({ noticed.notices with resendDue := true } : NoticeUnit).resendDue = true ∧
      noticed.notices.queue = notice 65535 true :: [notice 1 false]) ∧
    (noticed.notices.resendDue = false ∧ noticed.notices.queue = [notice 65535 true] ++ notice 1 false :: [] ∧
      (∀ x ∈ [notice 65535 true], x.sent = true) ∧ (notice 1 false).sent = false) ∧
    ∀ x ∈ ({ noticed.notices with queue := [notice 65535 true] } : NoticeUnit).queue, x.sent = true := by decide

/-- The frame of a notice is on TXD. -/
def noticeOut (number : Nat) : State :=
  { noticed with tx := { frame := some { sendingFrame with notice := some number }, lastServed := .notice } }

theorem witness_FrameEndFreesTransmitter :
    (noticed.phase = .running ∧ noticed.tx.frame = some sendingFrame ∧ sendingFrame.notice = none) ∧
    ((noticeOut 65535).tx.frame = some { sendingFrame with notice := some 65535 } ∧
      (noticeOut 65535).notices.queue = notice 65535 true :: [notice 1 false] ∧
      (notice 65535 true).number = 65535 ∧ (noticeOut 65535).notices.link = .live) ∧
    ((noticeOut 1).notices.queue.head?.map Notice.number) ≠ some 1 ∧
    ({ noticed with notices := { noticed.notices with link := .deaf } } : State).notices.link = .deaf ∧
    (loud.tx.frame = some sendingFrame ∧ loud.tracker.immediate = [] ∧ loud.outgoingReply = none ∧
      loud.notices.due = none) ∧
    (quiet.tx.frame = none ∧ (after .rstnAsserted quiet).phase = .inReset .resetPin) := by decide

/-- A command of a running state after which the choice is made. -/
theorem witness_FrameEndFreesTransmitter_settled :
    quiet.phase = .running ∧ exec .frameEnd quiet = .next (after .frameEnd quiet) := ⟨by decide, rfl⟩

/-- The start bit, data bit 7 and the last period of the stop bit of a character on TXD. -/
theorem witness_FrameEndFreesTransmitter_txd :
    loud.tx.frame = some sendingFrame ∧ sendingFrame.bytes[0]? = some 0xC3#8 ∧
    (let left (k : Nat) := (sendingFrame.bytes.length * 10 - (0 * 10 + k)) * bitTime loud.rate
     sendingFrame.remaining = left 0 ∧ left 8 - bitTime loud.rate < 125001 ∧ 125001 ≤ left 8 ∧
       left 9 - bitTime loud.rate < 1 ∧ 1 ≤ left 9) := by decide

theorem witness_WireIsLeftAlone :
    quiet.phase = .running ∧ Kind.status.isTagged = false ∧ Kind.status ≠ .abort ∧ Kind.status ≠ .restart := by decide

theorem witness_UnlistedKindAndTagZero :
    (quiet.phase = .running ∧ requestKindCodes.contains 0x80#8 = false) ∧
    (Kind.timingSet.isTagged = true ∧ (0xF0#8).toNat % 16 = 0) := by decide

theorem witness_RetransmissionIsNotRepeated :
    ((queued (entryOf readOne .waiting)).phase = .running ∧ Kind.read.isTagged = true ∧ tagOf? 0x14#8 = some 3) ∧
    (queued (entryOf readOne .waiting)).tagOf 3 = .pending (phaseOf 0x14#8) ∧
    (tagOf? 0x04#8 = some 3 ∧ (queued (entryOf readOne .waiting)).tagOf 3 = .pending (!phaseOf 0x04#8)) ∧
    (tagOf? 0x0F#8 = some 14 ∧
      (quiet.setTag 14 (.done false someReply)).tagOf 14 = .done (phaseOf 0x0F#8) someReply) := by decide

/-- A bus request that passes every check of R71, its last unit the window's last byte. -/
def lastByte : List Byte := [0x05#8, 0x00#8, 0xFF#8, 0x01#8, 0x01#8, 0x00#8]

def lastByteRequest : LinkRequest := .read 0x0500FF .one 1 .increment

theorem isNew_empty : loud.isNew 0x0F#8 14 := ⟨by decide, Or.inl (by decide)⟩
theorem isNew_win : win.isNew 0x0F#8 14 := ⟨by decide, Or.inl (by decide)⟩
theorem isNew_done : (win.setTag 14 (.done true someReply)).isNew 0x0F#8 14 :=
  ⟨by decide, Or.inr ⟨someReply, by decide⟩⟩

theorem witness_BusRequestAccepted :
    win.phase = .running ∧ win.isNew 0x0F#8 14 ∧ Kind.read.busBody 0x0F#8 lastByte = .ok lastByteRequest ∧
      win.firstWindow lastByteRequest = some 6 ∧
      lastByteRequest.permittedBy (win.window 6).fields.rights = true ∧ lastByteRequest.aligned = true ∧
      lastByteRequest.inside (win.window 6) = true ∧ (win.window 6).health.state ≠ .failed ∧
      win.queue.length < 12 ∧ ({ win with queue := twelve.tail } : State).queue.length = 11 ∧
      forceOf 0x2F#8 = true :=
  ⟨by decide, isNew_win, by decide, by decide, by decide, by decide, by decide, by decide, by decide, by decide,
    by decide⟩

/-- Every clause: a body out of range, no window, no right, a misaligned unit, a unit past the window's end, a FAILED
window, a full queue. -/
theorem witness_BusRequestRefused :
    win.isNew 0x0F#8 14 ∧
    Kind.read.busBody 0x0F#8 [0x40#8, 0x00#8, 0x00#8, 0x01#8, 0x01#8, 0x00#8] = .error .badField ∧
    (Kind.read.busBody 0x0F#8 [0x05#8, 0x01#8, 0x00#8, 0x01#8, 0x01#8, 0x00#8] =
        .ok (.read 0x050100 .one 1 .increment) ∧ win.firstWindow (.read 0x050100 .one 1 .increment) = none) ∧
    lastByteRequest.permittedBy .writeOnly = false ∧
    (Kind.read.busBody 0x0F#8 [0x05#8, 0x00#8, 0xFF#8, 0x02#8, 0x01#8, 0x00#8] =
        .ok (.read 0x0500FF .two 1 .increment) ∧
      (LinkRequest.read 0x0500FF .two 1 .increment).permittedBy (win.window 6).fields.rights = true ∧
      (LinkRequest.read 0x0500FF .two 1 .increment).aligned = false) ∧
    (Kind.read.busBody 0x0F#8 [0x05#8, 0x00#8, 0xFF#8, 0x01#8, 0x02#8, 0x00#8] =
        .ok (.read 0x0500FF .one 2 .increment) ∧
      win.firstWindow (.read 0x0500FF .one 2 .increment) = some 6 ∧
      (LinkRequest.read 0x0500FF .one 2 .increment).permittedBy (win.window 6).fields.rights = true ∧
      (LinkRequest.read 0x0500FF .one 2 .increment).aligned = true ∧
      (LinkRequest.read 0x0500FF .one 2 .increment).inside (win.window 6) = false) ∧
    (forceOf 0x0F#8 = false ∧ lastByteRequest.inside failedWindow = true ∧ failedWindow.health.state = .failed) ∧
    12 ≤ ({ win with queue := twelve } : State).queue.length :=
  ⟨isNew_win, by decide, by decide, by decide, by decide, by decide, by decide, by decide⟩

/-- The body checks of READ and WRITE, a field at a time just out of its range. -/
theorem witness_BusRequestRefused_bodies :
    ([0x05#8, 0x00#8, 0x10#8, 0x01#8, 0x01#8].length ≠ 6 ∧
      spareClear 0x4F#8 = false ∧ 0x400000 ≤ fieldAt [0x40#8, 0x00#8, 0x00#8, 0x01#8, 0x01#8, 0x00#8] 0 3 ∧
      ¬ unitCode (fieldAt [0x05#8, 0x00#8, 0x10#8, 0x03#8, 0x01#8, 0x00#8] 3 1) ∧
      fieldAt [0x05#8, 0x00#8, 0x10#8, 0x01#8, 0x00#8, 0x00#8] 4 1 = 0 ∧
      128 < fieldAt [0x05#8, 0x00#8, 0x10#8, 0x01#8, 0x81#8, 0x00#8] 4 1 *
        fieldAt [0x05#8, 0x00#8, 0x10#8, 0x01#8, 0x81#8, 0x00#8] 3 1 ∧
      2 ≤ fieldAt [0x05#8, 0x00#8, 0x10#8, 0x01#8, 0x01#8, 0x02#8] 5 1) ∧
    ([0x05#8, 0x00#8, 0x10#8].length < 4 ∧
      (4 ≤ [0x05#8, 0x00#8, 0x10#8, 0x03#8].length ∧ ¬ unitCode (fieldAt [0x05#8, 0x00#8, 0x10#8, 0x03#8] 3 1)) ∧
      (unitCode (fieldAt [0x05#8, 0x00#8, 0x10#8, 0x01#8] 3 1) ∧
        [0x05#8, 0x00#8, 0x10#8, 0x01#8].length ≠ 6 + fieldAt [0x05#8, 0x00#8, 0x10#8, 0x01#8] 5 1 *
          fieldAt [0x05#8, 0x00#8, 0x10#8, 0x01#8] 3 1) ∧
      (unitCode (fieldAt [0x05#8, 0x00#8, 0x10#8, 0x01#8, 0x02#8, 0x01#8, 0x12#8] 3 1) ∧
        [0x05#8, 0x00#8, 0x10#8, 0x01#8, 0x02#8, 0x01#8, 0x12#8].length =
          6 + fieldAt [0x05#8, 0x00#8, 0x10#8, 0x01#8, 0x02#8, 0x01#8, 0x12#8] 5 1 *
            fieldAt [0x05#8, 0x00#8, 0x10#8, 0x01#8, 0x02#8, 0x01#8, 0x12#8] 3 1 ∧
        2 ≤ fieldAt [0x05#8, 0x00#8, 0x10#8, 0x01#8, 0x02#8, 0x01#8, 0x12#8] 4 1)) := by
  unfold unitCode; decide

def testStep : SeqStep := { op := .test 0x80 0x80, address := 0x050015, unit := .one }

/-- The body checks of SEQUENCE: a byte too many, no step, an address above the space, a step cut short, no valid code,
operands cut short. -/
theorem witness_BusRequestRefused_steps :
    ([testStep].length = (1#8).toNat ∧ [0x00#8] ≠ ([] : List Byte)) ∧
    (([] : List SeqStep).length = (0#8).toNat ∧
      ∃ st ∈ [{ testStep with address := 0x400000 }], 0x400000 ≤ st.address ∧ st.address < 0x1000000) ∧
    ([testStep].length < (2#8).toNat ∧ [0x01#8, 0x05#8, 0x00#8, 0x10#8].length < 5) ∧
    (5 ≤ [0x04#8, 0x05#8, 0x00#8, 0x10#8, 0x01#8].length ∧
      4 ≤ fieldAt [0x04#8, 0x05#8, 0x00#8, 0x10#8, 0x01#8] 0 1 ∧
      ¬ unitCode (fieldAt [0x01#8, 0x05#8, 0x00#8, 0x10#8, 0x00#8] 4 1)) ∧
    (fieldAt [0x01#8, 0x05#8, 0x00#8, 0x10#8, 0x02#8, 0xFF#8] 0 1 = (StepOp.write 0).code ∧
      fieldAt [0x01#8, 0x05#8, 0x00#8, 0x10#8, 0x02#8, 0xFF#8] 4 1 = UnitSize.two.bytes ∧
      [0x01#8, 0x05#8, 0x00#8, 0x10#8, 0x02#8, 0xFF#8].length <
        5 + (StepOp.write 0).operands.length * UnitSize.two.bytes) := by
  unfold unitCode; decide

theorem witness_BusDataReadsBack :
    (spareClear 0x3F#8 = true ∧ 0x3FFFFF < 0x400000 ∧ 128 * UnitSize.one.bytes ≤ 128) ∧
    ((List.replicate 32 (0xFFFFFFFF#32)).length * UnitSize.four.bytes ≤ 128 ∧
      ∀ v ∈ List.replicate 32 (0xFFFFFFFF#32), v.toNat < 2 ^ (8 * UnitSize.four.bytes)) ∧
    (∀ st ∈ List.replicate 8 ({ op := .test 0xFF 0xFF, address := 0x3FFFFF, unit := .one } : SeqStep),
      st.address < 0x400000 ∧ ∀ v ∈ st.op.operands, v.toNat < 2 ^ (8 * st.unit.bytes)) ∧
    (Lane.both ≠ .unset ∧ 0x3FFFFC % UnitSize.four.bytes = 0 ∧
      (0xFFFFFFFF#32).toNat < 2 ^ (8 * UnitSize.four.bytes)) := by
  refine ⟨by decide, ⟨by simp [UnitSize.bytes], ?_⟩, ?_, by decide, by decide, (0xFFFFFFFF#32).isLt⟩
  · intro v _
    exact v.isLt
  · intro st h
    rw [List.eq_of_mem_replicate h]
    simp [StepOp.operands, UnitSize.bytes]

/-- The extremes of the window fields (R2 to R6). -/
def widest : WindowFields :=
  { base := 0, sizeExp := 22, select := 5, lane := .both, rights := .readWrite, setup := 3, strobe := 32, hold := 3,
    readyMode := .ready, readyLimit := 4096, releaseGap := 7, retryLimit := 15, retryBackoff := 1023,
    declareCount := 15, clearCount := 15, severeThreshold := 65535, notifyHealth := true, notifySevere := true }

theorem witness_WindowSetAccepted :
    loud.phase = .running ∧ loud.isNew 0x0F#8 14 ∧ spareClear 0x0F#8 = true ∧ forceOf 0x0F#8 = false ∧
      widest.inRange = true ∧ ({ loud with queue := twelve.tail } : State).queue.length < 12 :=
  ⟨by decide, isNew_empty, by decide, by decide, by decide, by decide⟩

/-- A body of 24 bytes, a window number 8, and a body in range before a full queue. -/
theorem witness_WindowSetAccepted_refused :
    (be1 7 ++ widest.toBytes ++ [0x00#8]).length ≠ 23 ∧
    ((be1 8 ++ widest.toBytes).length = 23 ∧ ¬ windowSetInRange 0x0F#8 (be1 8 ++ widest.toBytes)) ∧
    ¬ windowSetInRange 0x2F#8 (be1 7 ++ widest.toBytes) ∧
    ((be1 7 ++ widest.toBytes).length = 23 ∧ windowSetInRange 0x0F#8 (be1 7 ++ widest.toBytes) ∧
      12 ≤ ({ loud with queue := twelve } : State).queue.length) :=
  ⟨by decide, ⟨by decide, by unfold windowSetInRange; decide⟩, by unfold windowSetInRange; decide, by decide,
    by unfold windowSetInRange; decide, by decide⟩

theorem witness_WindowCloseAccepted :
    win.isNew 0x0F#8 14 ∧ spareClear 0x0F#8 = true ∧ 7 < (0x08#8).toNat ∧ forceOf 0x2F#8 = true ∧
      (0x07#8).toNat = (7 : WinId).val ∧ forceOf 0x0F#8 = false ∧
      ({ win with queue := twelve.tail } : State).queue.length < 12 ∧
      12 ≤ ({ win with queue := twelve } : State).queue.length :=
  ⟨isNew_win, by decide, by decide, by decide, by decide, by decide, by decide, by decide⟩

/-- A window request is the oldest item bound to window 6. -/
def requestQueued (r : LinkRequest) : State := queued (entryOf r .waiting)

/-- Window 6 holds watch entry 9. -/
def watchedRequest (r : LinkRequest) : State := (requestQueued r).setWatch 9 (some watched)

theorem witness_WindowRequestTakesEffect :
    ((watchedRequest (.windowSet widest)).phase = .running ∧
      (watchedRequest (.windowSet widest)).oldestOn 6 = some (entryOf (.windowSet widest) .waiting) ∧
      (watchedRequest (.windowSet widest)).inUse 6 = false ∧
      (∀ v : WinId, v ≠ 6 → ((watchedRequest (.windowSet widest)).window v).isOpen = true →
        widest.overlaps ((watchedRequest (.windowSet widest)).window v).fields = false) ∧
      ∀ c ∈ (watchedRequest (.windowSet widest)).watchersOf 6,
        widest.base ≤ c.address ∧ c.address + c.unit.bytes ≤ widest.base + 2 ^ widest.sizeExp ∧
          widest.rights.permitsRead = true) ∧
    ((requestQueued .windowClose).oldestOn 6 = some (entryOf .windowClose .waiting) ∧
      (requestQueued .windowClose).inUse 6 = false ∧ (requestQueued .windowClose).watchersOf 6 = []) := by decide

/-- A range that ends where window 6 begins, and one that begins on its last byte. -/
def below : WindowFields := { fields with base := 0x04FF00 }
def across : WindowFields := { fields with base := 0x040000, sizeExp := 17 }

theorem witness_WindowRequestFailsOrWaits :
    ((requestQueued (.windowSet across)).oldestOn 6 = some (entryOf (.windowSet across) .waiting) ∧
      across.overlaps (((requestQueued (.windowSet across)).setWindow 5 opened).window 5).fields = true) ∧
    ((∀ v : WinId, v ≠ 6 → ((watchedRequest (.windowSet below)).window v).isOpen = true →
        below.overlaps ((watchedRequest (.windowSet below)).window v).fields = false) ∧
      ∃ c ∈ (watchedRequest (.windowSet below)).watchersOf 6,
        ¬ (below.base ≤ c.address ∧ c.address + c.unit.bytes ≤ below.base + 2 ^ below.sizeExp ∧
          below.rights.permitsRead = true)) ∧
    ((watchedRequest .windowClose).oldestOn 6 = some (entryOf .windowClose .waiting) ∧
      (watchedRequest .windowClose).watchersOf 6 ≠ []) ∧
    ((queued (entryOf readOne .deferred)).oldestOn 6 = some (entryOf readOne .deferred) ∧
      readOne.isBus = true) ∧
    ({ requestQueued .windowClose with
        bus := { Bus.reset with state := .retryWait 0, turn := some pollTurn } } : State).inUse 6 = true := by decide

theorem witness_TableQueriesAnswer :
    polling.phase = .running ∧ spareClear 0x3F#8 = true ∧ polling.watchOf 31 = none ∧
      polling.watchOf 9 = some watched ∧ polling.decode watched.config.address = some 6 := by decide

theorem witness_StatisticsReadsAnswer :
    win.phase = .running ∧ spareClear 0x3F#8 = true ∧ (win.window 7).isOpen = false ∧ (win.window 6).isOpen = true ∧
      1 ≤ 8 ∧ 8 ≤ 8 := by decide

/-- The body of the WATCH_SET of the tests. -/
def watchBody (address unit : Nat) : List Byte :=
  be1 9 ++ be3 address ++ be1 unit ++ be1 0 ++ be4 0xFF ++ be4 1 ++ be1 2 ++ be1 2 ++ be1 1 ++ be1 7

theorem witness_WatchSetStartsOrIsRefused :
    win.isNew 0x0F#8 14 ∧
    (readWatchSet (spareClear 0x0F#8 && !forceOf 0x0F#8) (watchBody 0x050020 1) = .ok (9, config) ∧
      win.watchOf 9 = none ∧ win.decode config.address = some 6 ∧
      (win.window 6).fields.rights.permitsRead = true ∧ config.address % config.unit.bytes = 0) ∧
    readWatchSet (spareClear 0x2F#8 && !forceOf 0x2F#8) (watchBody 0x050020 1) = .error .badField ∧
    polling.watchOf 9 ≠ none ∧ win.decode 0x050100 = none ∧
    (({ opened with fields := { fields with rights := .writeOnly } } : Window).fields.rights.permitsRead = false) ∧
    (readWatchSet (spareClear 0x0F#8 && !forceOf 0x0F#8) (watchBody 0x0500FF 2) =
        .ok (9, { config with address := 0x0500FF, unit := .two }) ∧
      win.decode 0x0500FF = some 6 ∧ 0x0500FF % UnitSize.two.bytes ≠ 0) :=
  ⟨isNew_win, by decide, by decide, by decide, by decide, by decide, by decide⟩

/-- The body checks of WATCH_SET. -/
theorem witness_WatchSetStartsOrIsRefused_bodies :
    (watchBody 0x050020 1 ++ [0x00#8]).length ≠ 18 ∧
    ((watchBody 0x050020 3).length = 18 ∧ ¬ watchSetInRange true (watchBody 0x050020 3)) ∧
    ¬ watchSetInRange true (watchBody 0x400000 1) ∧ ¬ watchSetInRange false (watchBody 0x050020 1) ∧
    ((watchBody 0x3FFFFF 4).length = 18 ∧ watchSetInRange true (watchBody 0x3FFFFF 4)) :=
  ⟨by decide, ⟨by decide, by unfold watchSetInRange unitCode; decide⟩, by unfold watchSetInRange unitCode; decide,
    (fun h => Bool.false_ne_true h.1), by decide, by unfold watchSetInRange unitCode; decide⟩

theorem isNew_polling : polling.isNew 0x0F#8 14 := ⟨by decide, Or.inl (by decide)⟩

theorem witness_WatchDropFrees :
    polling.isNew 0x0F#8 14 ∧ spareClear 0x0F#8 = true ∧ forceOf 0x0F#8 = false ∧ polling.watchOf 9 = some watched ∧
    polling.bus.turn = none ∧ (inPoll.bus.turn = some pollTurn ∧ pollTurn.holder = .poll 9 ∧
      inPoll.bus.state = .access access) ∧
    ({ inPoll with bus := { Bus.reset with state := .gap, turn := some pollTurn } } : State).bus.state = .gap ∧
    polling.watchOf 0 = none :=
  ⟨isNew_polling, by decide, by decide, by decide, by decide, by decide, by decide, by decide⟩

theorem witness_WatchDropFrees_refused :
    31 < (0x20#8).toNat ∧ forceOf 0x2F#8 = true ∧ ([] : List Byte).length ≠ 1 ∧ [0x00#8, 0x00#8].length ≠ 1 ∧
      [0x00#8].length = 1 ∧ spareClear 0x4F#8 = false ∧ spareClear 0x8F#8 = false := by decide

theorem witness_PollTickCountsDown : polling.phase = .running := by decide

theorem witness_CountersClearKeepsTallies :
    win.isNew 0x0F#8 14 ∧ spareClear 0x0F#8 = true ∧ 7 < (0x08#8).toNat ∧ forceOf 0x2F#8 = true ∧
      (0x06#8).toNat = (6 : WinId).val ∧ (win.window 6).isOpen = true ∧ (0x07#8).toNat = (7 : WinId).val ∧
      (win.window 7).isOpen = false :=
  ⟨isNew_win, by decide, by decide, by decide, by decide, by decide, by decide, by decide⟩

theorem witness_IntervalEndClosesRecords :
    win.phase = .running ∧ (win.window 7).isOpen = false ∧ (win.window 6).isOpen = true := by decide

/-- The greatest timing parameters (R151). -/
def slowest : Timing :=
  { pollTick := 100, interval := 60, lifetime := 65535, pollShare := 8, resendInterval := 5000, resendLimit := 15 }

/-- The mask of the poll tick, the lifetime and the resend interval, whatever the other values. -/
def someSlow : Timing := { slowest with interval := 0, pollShare := 9, resendLimit := 16 }

theorem witness_TimingSetSetsPresent :
    loud.phase = .running ∧ loud.isNew 0x0F#8 14 ∧ spareClear 0x0F#8 = true ∧ forceOf 0x0F#8 = false ∧
      (slowest.fits ∧ slowest.presentOk 0x3F#8 ∧ (0x3F#8).getLsbD 6 = false ∧ (0x3F#8).getLsbD 7 = false) ∧
      slowest.presentOk 0x00#8 ∧ (someSlow.fits ∧ someSlow.presentOk 0x15#8) :=
  ⟨by decide, isNew_empty, by decide, by decide, by unfold Timing.fits Timing.presentOk; decide,
    by unfold Timing.presentOk; decide, by unfold Timing.fits Timing.presentOk; decide⟩

/-- One byte too many for the mask, spare bits of mask and tag byte, FORCE, and a present parameter out of range. -/
theorem witness_TimingSetSetsPresent_refused :
    [0x00#8].length ≠ timingLength 0x00#8 ∧ [0x00#8].length ≠ timingLength 0x04#8 ∧
      (0x40#8).getLsbD 6 = true ∧ (0x80#8).getLsbD 7 = true ∧ spareClear 0x4F#8 = false ∧ forceOf 0x2F#8 = true ∧
      (someSlow.fits ∧ ¬ someSlow.presentOk 0x02#8) := by
  unfold Timing.fits Timing.presentOk; decide

theorem witness_StatusAnswers : noticed.phase = .running ∧ spareClear 0x3F#8 = true := by decide

def deafened (s : State) : State :=
  { s with notices := { s.notices with queue := [notice 7 true], link := .deaf, resendTimer := none } }

/-- Frames in DEAF while SENDING and while FREE, one that is answered first and one that is not. -/
theorem witness_StatusAnswers_deaf :
    ((deafened loud).phase = .running ∧ (deafened loud).notices.link = .deaf ∧
      (deafened loud).transmit.tx.frame.isSome = true) ∧
    ((deafened quiet).notices.link = .deaf ∧ (deafened quiet).transmit.tx.frame = none ∧
      (deafened quiet).notices.queue = notice 7 true :: []) ∧
    Kind.restart ≠ .noticeAck ∧ requestKindCodes.contains 0xF0#8 = false ∧
    (after (Kind.restart.command 0x00#8 []) (deafened quiet)).notices.resendDue = true ∧
    (after (.byteArrival 0x00#8 true) (deafened quiet)).notices.link = .deaf := by decide
theorem witness_IdentifyAnswers : noticed.phase = .running ∧ spareClear 0x00#8 = true := by decide

theorem witness_ImmediateRefused :
    loud.phase = .running ∧ Kind.historyRead.immediateLength = some 2 ∧ [0x00#8].length ≠ 2 ∧
      [0x00#8, 0x01#8].length = 2 ∧ spareClear 0x40#8 = false ∧ 7 < fieldAt [0x08#8, 0x01#8] 0 1 ∧
      fieldAt [0x00#8, 0x00#8] 1 1 = 0 ∧ 8 < fieldAt [0x00#8, 0x09#8] 1 1 ∧ 31 < fieldAt [0x20#8] 0 1 ∧
      fieldAt [0x00#8] 0 1 = 0 ∧ 15 < fieldAt [0x10#8] 0 1 := by decide

/-- The entry's turn waits out the release gap before its first access. -/
def inGap : State :=
  { queued (entryOf readOne .active) with bus := { Bus.reset with state := .gap, turn := some linkTurn } }

theorem witness_AbortActsOnEntry :
    loud.phase = .running ∧ spareClear 0x00#8 = true ∧ loud.entryOf 14 = none ∧
    ((queued (entryOf readOne .deferred)).entryOf 3 = some (entryOf readOne .deferred) ∧
      (entryOf readOne .deferred).state ≠ .active) ∧
    ((inAccess (entryOf readOne .active)).entryOf 3 = some (entryOf readOne .active) ∧
      (inAccess (entryOf readOne .active)).bus.state ≠ .gap) ∧
    (inGap.entryOf 3 = some (entryOf readOne .active) ∧ inGap.bus.state = .gap ∧ inGap.bus.turn = some linkTurn ∧
      linkTurn.holder = .link 3 ∧ (entryOf readOne .active).accessIndex = 0) := by decide

theorem witness_RestartEmptiesSession :
    (inAccess (entryOf readOne .active)).phase = .running ∧ spareClear 0x00#8 = true ∧
    (inAccess (entryOf readOne .active)).bus.turn = some linkTurn ∧ linkTurn.holder = .link 3 ∧
    (inAccess (entryOf readOne .active)).bus.state = .access access ∧ inGap.bus.turn = some linkTurn ∧
    inGap.bus.state = .gap ∧ loud.bus.turn = none ∧ loud.transmit.tx.frame.isSome = true ∧
    quiet.transmit.tx.frame = none := by decide

theorem witness_NoticeEntryNumbers :
    ({ loud with notices := { NoticeUnit.empty with queue := List.replicate 23 (notice 1 true) } } :
        State).notices.queue.length < 24 ∧
    24 ≤ ({ loud with notices := { NoticeUnit.empty with queue := List.replicate 24 (notice 1 true) } } :
        State).notices.queue.length := by decide

theorem witness_NoticeAckIsCumulative :
    noticed.phase = .running ∧ spareClear 0x00#8 = true ∧ 65535 ≤ 65535 ∧
    (noticed.transmit.notices.queue = [] ++ notice 65535 true :: [notice 1 false] ∧
      (notice 65535 true).number = 65535) ∧
    (noticed.transmit.notices.queue = [notice 65535 true] ++ notice 1 false :: [] ∧ (notice 1 false).number = 1 ∧
      ∀ y ∈ [notice 65535 true], y.number ≠ 1) ∧
    (∀ y ∈ noticed.notices.queue, y.number ≠ 0) := by decide

/-- Window 6 closes a severe interval while the oldest notice, 7, waits for its acknowledgement; TXD is FREE. -/
def severe (pending : List Instr) : State :=
  { (quiet.setWindow 6 opened).setStats 6
      { WindowStats.zero with tallies := { ok := 0, faults := 4, defers := 0, exhausts := 0 } } with
    notices := { NoticeUnit.empty with queue := [notice 7 true], next := 8, resendTimer := some 5 },
    pending := pending }

def ack7 : Instr := .noticeAck 0x00#8 (be2 7)

def marks (s : State) : List (Nat × Bool) × Option Nat :=
  (s.notices.queue.map fun x => (x.number, x.sent), s.notices.resendTimer)

/-- R139: where the acknowledgement that empties the queue falls with the entry, it starts no timer for the new notice in
either order. Entered first, the notice is taken at once and its sent flag set (R134, R168); entered last, it waits unsent
behind the answer. -/
theorem test_entryWithAck :
    marks (after ack7 (after .intervalEnd (severe [ack7]))) = ([(8, true)], none) ∧
    marks (after .intervalEnd (after ack7 (severe []))) = ([(8, false)], none) := by decide

/-- The FREE transmitter has taken the new notice when it joined and set its sent flag (R168, R169), the answer of the
acknowledgement waits behind its frame, and its timer starts at the end of that frame (R139). -/
theorem test_entryWithAckIsTaken :
    let entered := after .intervalEnd (severe [ack7])
    let acked := after ack7 entered
    let ended := after .frameEnd acked
    (entered.tx.frame.map TxFrame.notice = some (some 8) ∧ marks entered = ([(7, true), (8, true)], some 5) ∧
      acked.tx = entered.tx ∧
      acked.tracker.immediate.map Reply.kind = [0xE0#8]) ∧
    marks ended = ([(8, true)], some 25000000) ∧ ended.tx.frame.map TxFrame.notice = some none := by
  decide +kernel

/-- The take of the new notice sets its sent flag whatever waits behind the entry (R134, R169). Where that is nothing, an
acknowledgement of the new notice itself, of a number not queued, or a character that ends no frame, an acknowledgement
that comes later starts the timer for the notice in transmission as R138 has it. -/
theorem test_entryIsTaken :
    [[], [.noticeAck 0x00#8 (be2 8)], [.noticeAck 0x00#8 (be2 6)], [.noticeAck 0x40#8 (be2 7)],
      [.byteArrival 0x42#8 true]].all (fun pending =>
        let entered := after .intervalEnd (severe pending)
        (marks entered = ([(7, true), (8, true)], some 5) ∧ marks (after ack7 entered) = ([(8, true)], some 25000000) :
          Bool)) = true := by decide +kernel

/-- The same acknowledgement character by character: its last character waits right behind the entry. -/
theorem test_entryWithLastCharacter :
    let frame := frameBytes 0x60#8 0x00#8 (be2 7)
    let held (s : State) : State := { s with rx := { s.rx with line := .looking, held := frame.dropLast } }
    let last : Instr := .byteArrival (frame.getLastD 0) true
    marks (after last (after .intervalEnd (held (severe [last])))) = ([(8, true)], none) := by decide +kernel

theorem witness_NoticeAckIsCumulative_entry :
    (severe [ack7]).phase = .running ∧ (severe [ack7]).pending = ack7 :: [] ∧
    (after .intervalEnd (severe [ack7])).notices.queue.map Notice.number = [7, 8] ∧
    ([] : List Notice).length + 1 = (severe [ack7]).notices.queue.length ∧ (notice 7 true).number = 7 ∧
    ((severe [ack7]).transmit.tx.frame = none ∧ (severe [ack7]).notices.link = .live) ∧
    exec .intervalEnd (severe [ack7]) = .next (after .intervalEnd (severe [ack7])) :=
  ⟨by decide, by decide, by decide, by decide, by decide, by decide, rfl⟩

/-- The transmitter is SENDING at the entry: the new notice is not taken. -/
theorem witness_NoticeAckIsCumulative_sending :
    let s : State := { severe [ack7] with tx := { frame := some sendingFrame, lastServed := .notice } }
    s.phase = .running ∧ s.transmit.tx.frame.isSome = true ∧
    marks (after .intervalEnd s) = ([(7, true), (8, false)], some 5) ∧
    exec .intervalEnd s = .next (after .intervalEnd s) := ⟨by decide, by decide, by decide, rfl⟩

theorem witness_ResendExpiry :
    noticed.phase = .running ∧ noticed.notices.resendTimer = some 5 ∧
    ({ noticed with notices := { noticed.notices with resendCount := 4 } } : State).notices.resendCount <
      noticed.timing.resendLimit ∧
    noticed.timing.resendLimit ≤
      ({ noticed with notices := { noticed.notices with resendCount := 5 } } : State).notices.resendCount ∧
    noticed.transmit.tx.frame.isSome = true ∧ loud.notices.resendTimer = none := by decide

/-- A FREE transmitter takes the resend at once. -/
theorem witness_ResendExpiry_free :
    (severe []).phase = .running ∧ (severe []).notices.resendTimer = some 5 ∧
    (severe []).notices.resendCount < (severe []).timing.resendLimit ∧ (severe []).transmit.tx.frame = none ∧
    (severe []).notices.link = .live ∧ (severe []).notices.queue = notice 7 true :: [] := by decide

/-- The release-gap record names a select line, and link and poll requests wait. -/
def contended (select grants : Nat) : State :=
  { (queued (entryOf readOne .waiting)).setWatch 9 (some watched) with
    pollQueue := [9], linkGrants := grants,
    bus := { Bus.reset with gapRecord := some { select := select, remaining := 1 } } }

def readStep : SeqStep := { op := .read, address := 0x050010, unit := .two }

theorem witness_GrantToLink :
    (contended 2 3).phase = .running ∧ (contended 2 3).bus.state = .idle ∧ (contended 2 3).bus.turn = none ∧
    (contended 2 3).bus.lendPending = false ∧
    (contended 2 3).linkCandidate = some (entryOf readOne .waiting) ∧
    (contended 2 3).linkGrants < (contended 2 3).timing.pollShare ∧
    (contended 2 3).recheck (entryOf readOne .waiting) = none ∧ readOne.workAt 0 = some readStep ∧
    ((contended 2 3).bus.gapRecord = some { select := 2, remaining := 1 } ∧
      2 = ((contended 2 3).window 6).fields.select) ∧
    (contended 1 3).bus.gapRecord = some { select := 1, remaining := 1 } ∧
    (queued (entryOf readOne .waiting)).pollCandidate = none := by decide

/-- A WRITE of two bytes waits, its window HIGH; the lane and unit clauses. -/
def highWrite : State :=
  { (queued (entryOf (.write 0x050010 .two .increment [0x1234]) .waiting)) with windows := loud.windows }.setWindow 6
    { opened with fields := { fields with lane := .high } }

theorem witness_GrantToLink_lanes :
    ((contended 2 3).window 6).fields.lane = .low ∧ (highWrite.window 6).fields.lane = .high ∧
    widest.lane = .both ∧ ({ readStep with unit := .one } : SeqStep).unit = .one ∧ readStep.unit ≠ .one ∧
    (highWrite.linkCandidate = some (entryOf (.write 0x050010 .two .increment [0x1234]) .waiting) ∧
      highWrite.recheck (entryOf (.write 0x050010 .two .increment [0x1234]) .waiting) = none ∧
      (LinkRequest.write 0x050010 .two .increment [0x1234]).workAt 0 =
        some { op := .write 0x1234, address := 0x050010, unit := .two }) := by decide

/-- A DEFERRED entry in its backoff holds back the younger one of its window, not the one of another window, and blocks
the poll of its window (R46 to R49). -/
def backingOff (retryTime : Option Nat) : State :=
  { polling with
    queue := [{ entryOf readOne .deferred with retryTime := retryTime }, { entryOf readOne .waiting with tag := 4 },
              { entryOf readOne .waiting with tag := 5, window := 5 }] }

theorem test_linkCandidate :
    ((backingOff (some 7)).queue.map LinkEntry.tag).Nodup ∧
      ((backingOff (some 7)).linkCandidate.map LinkEntry.tag) = some 5 ∧
      ((backingOff none).linkCandidate.map LinkEntry.tag) = some 3 ∧ win.linkCandidate = none := by decide

theorem test_pollCandidate :
    polling.pollCandidate = some 9 ∧ (backingOff (some 7)).pollCandidate = none ∧
      ({ polling with queue := [entryOf .windowClose .waiting] } : State).pollCandidate = none ∧
      ({ polling with queue := [entryOf readOne .waiting] } : State).pollCandidate = some 9 := by decide

/-- GRANT finds nothing to do in an access, with a lend pending, and with nothing eligible. -/
theorem witness_GrantToPoll_nothing :
    ((inAccess (entryOf readOne .active)).phase = .running ∧
      (inAccess (entryOf readOne .active)).bus.state ≠ .idle) ∧
    ({ quiet with bus := { Bus.reset with lendPending := true } } : State).bus.lendPending = true ∧
    (win.linkCandidate = none ∧ win.pollCandidate = none) := by decide

theorem witness_GrantToPoll :
    (contended 2 4).bus.state = .idle ∧ (contended 2 4).pollCandidate = some 9 ∧
    (contended 2 4).timing.pollShare ≤ (contended 2 4).linkGrants ∧ (contended 2 4).watchOf 9 = some watched ∧
    (contended 2 4).decode watched.config.address = some 6 ∧ polling.linkCandidate = none ∧
    polling.pollCandidate = some 9 ∧ (contended 1 4).bus.gapRecord = some { select := 1, remaining := 1 } := by decide

/-- The request waits while its window has become another. -/
def changed (x : Window) : State := (queued (entryOf readOne .waiting)).setWindow 6 x

theorem witness_GrantRecheckFails :
    (changed { opened with isOpen := false }).linkCandidate = some (entryOf readOne .waiting) ∧
    (changed { opened with isOpen := false }).pollCandidate = none ∧
    ¬ ((changed { opened with isOpen := false }).window 6).isOpen = true ∧
    (∀ st ∈ readOne.works, (changed opened).decode st.address = some 6 ∧
      st.address + st.unit.bytes ≤ fields.base + 2 ^ fields.sizeExp) ∧
    ¬ (∀ st ∈ readOne.works, st.op.permittedBy .writeOnly = true) ∧
    (∀ st ∈ readOne.works, st.op.permittedBy .readWrite = true) ∧
    ((changed failedWindow).window 6).health.state = .failed ∧ (entryOf readOne .waiting).force = false := by decide

theorem witness_ReadyEndsStrobe :
    access.profile.readyMode = .ready ∧ 1 ≤ access.profile.strobe ∧ atFour.getD (4 - 1) false = true ∧
      access.profile.strobe ≤ 4 ∧ 4 ≤ max access.profile.strobe access.profile.readyLimit ∧
      (access.profile.strobeEnd atFour).2 = true ∧ (access.profile.strobeEnd never).2 = false ∧
      (inAccess (entryOf readOne .active)).phase = .running ∧
      (inAccess (entryOf readOne .active)).bus.state = .access access := by decide

/-- FIXED mode, and each of the other bus states. -/
theorem witness_ReadyEndsStrobe_others :
    ({ access.profile with readyMode := .fixed } : Profile).readyMode = .fixed ∧ quiet.phase = .running ∧
      quiet.bus.state = .idle ∧ (lastGap .gap).bus.state = .gap ∧
      (lastGap (.retryWait 1)).bus.state = .retryWait 1 ∧ (lastGap .lent).bus.state = .lent ∧
      (lastGap (.reclaim 1)).bus.state = .reclaim 1 := by decide

/-- No READY at all meets the second clause. -/
theorem witness_ReadyEndsStrobe_never :
    ∀ q, access.profile.strobe ≤ q → q ≤ max access.profile.strobe access.profile.readyLimit →
      never.getD (q - 1) false = false := by
  intro q _ _
  rfl

theorem witness_AccessOutcomeCounts :
    (inAccess (entryOf readOne .active)).phase = .running ∧
    (inAccess (entryOf readOne .active)).bus.state = .access access ∧
    (inAccess (entryOf readOne .active)).bus.turn = some linkTurn ∧
    (access.profile.strobeEnd atFour).2 = true ∧ (access.profile.strobeEnd never).2 = false ∧
    ((inAccess (entryOf readOne .active)).queue.map LinkEntry.tag).Nodup := by decide

/-- The holder of the turn was dropped during its access (R38, R39). -/
def orphaned : State :=
  { win with bus := { Bus.reset with state := .access access, turn := some { linkTurn with holder := .dropped } } }

theorem witness_AccessOutcomeCounts_dropped :
    orphaned.phase = .running ∧ orphaned.bus.state = .access access ∧
    orphaned.bus.turn = some { linkTurn with holder := .dropped } ∧
    (orphaned.window access.window).health.state ≠ .failed ∧
    ((after (.accessEnd never false 0#16) orphaned).window access.window).health.state ≠ .failed := by decide

/-- The last access of the READ of the tests. -/
def lastAccess : LinkEntry := { entryOf readOne .active with accessIndex := 1, held := 0x37 }

theorem witness_ReadCompletes :
    (inAccess lastAccess).phase = .running ∧ (inAccess lastAccess).bus.state = .access access ∧
    (inAccess lastAccess).bus.turn = some linkTurn ∧ linkTurn.holder = .link 3 ∧
    (inAccess lastAccess).entryOf 3 = some lastAccess ∧ lastAccess.request = .read 0x050010 .two 1 .increment ∧
    lastAccess.done + 1 = 1 ∧
    lastAccess.accessIndex + 1 = ((inAccess lastAccess).window lastAccess.window).fields.lane.accesses .two ∧
    (access.profile.strobeEnd atFour).2 = true ∧ access.dir = .read ∧ access.profile.releaseGap ≠ 0 ∧
    (inAccess lastAccess).bus.lendPending = false ∧
    ({ (inAccess lastAccess).bus with lendPending := true } : Bus).lendPending = true ∧
    ({ access.profile with releaseGap := 0 } : Profile).releaseGap = 0 := by decide

/-- The last access of a WRITE of one unit, its second byte, and of a SEQUENCE of one READ step. -/
def lastWrite : LinkEntry := { lastAccess with request := .write 0x050010 .two .increment [0x1234] }
def lastStep : LinkEntry := { lastAccess with request := .sequence [readStep] }

theorem witness_ReadCompletes_others :
    ((inAccess lastWrite).entryOf 3 = some lastWrite ∧ lastWrite.done + 1 = [(0x1234 : Value)].length ∧
      lastWrite.accessIndex + 1 = ((inAccess lastWrite).window 6).fields.lane.accesses .two) ∧
    ((inAccess lastStep).entryOf 3 = some lastStep ∧ [readStep][lastStep.done]? = some readStep ∧
      lastStep.done + 1 = [readStep].length ∧
      lastStep.accessIndex + 1 = readStep.accesses ((inAccess lastStep).window 6).fields.lane) := by decide

/-- A READ step differs from nothing, and a TEST not from the value it asks for. -/
theorem witness_differs : (∀ v, ¬ readStep.differs v) ∧ ¬ testStep.differs 0x80 := by
  simp [SeqStep.differs, readStep, testStep]

def modifyStep : SeqStep := { op := .modify 0xFE 0x01, address := 0x050015, unit := .one }

/-- A SEQUENCE of one step in its access. -/
def stepEntry (st : SeqStep) : LinkEntry := entryOf (.sequence [st]) .active

theorem witness_AccessStopsRequest :
    ((inAccess lastAccess).entryOf 3 = some lastAccess ∧ (access.profile.strobeEnd never).2 = false) ∧
    ((inAccess (stepEntry testStep)).entryOf 3 = some (stepEntry testStep) ∧
      (stepEntry testStep).request = .sequence [testStep] ∧ [testStep][(stepEntry testStep).done]? = some testStep ∧
      testStep.op = .test 0x80 0x80 ∧
      (stepEntry testStep).accessIndex + 1 =
        ((inAccess (stepEntry testStep)).window 6).fields.lane.accesses testStep.unit ∧
      ((stepEntry testStep).held |||
          ((((inAccess (stepEntry testStep)).window 6).fields.lane.piece testStep.unit testStep.address
            (stepEntry testStep).accessIndex).sample 0x7F#16)) &&& 0x80 ≠ 0x80) := by decide

/-- A READ of three units, its second done, its ABORT pending; and one without a stop. -/
def stopping : LinkEntry :=
  { lastAccess with request := .read 0x050010 .two 3 .increment, done := 1, stopRequested := true }

theorem witness_AccessStopsRequest_aborted :
    (inAccess stopping).entryOf 3 = some stopping ∧
    stopping.request.workAt stopping.done = some { readStep with address := 0x050012 } ∧
    stopping.stopRequested = true ∧ stopping.done + 1 < stopping.request.size ∧
    stopping.accessIndex + 1 =
      ({ readStep with address := 0x050012 } : SeqStep).accesses ((inAccess stopping).window 6).fields.lane := by
  decide

/-- A SEQUENCE at its retry limit. -/
def tired : LinkEntry := { stepEntry testStep with retryCount := 2 }

theorem witness_DeferredAccess_exhausted :
    (inAccess tired).entryOf 3 = some tired ∧ tired.request.isBus = true ∧ linkTurn.window = tired.window ∧
    access.window = tired.window ∧ ((inAccess tired).window tired.window).fields.retryLimit < tired.retryCount + 1 := by
  decide

theorem witness_DeferredAccess :
    ((inAccess lastAccess).entryOf 3 = some lastAccess ∧ linkTurn.window = lastAccess.window ∧
      access.window = lastAccess.window ∧ lastAccess.request.isBus = true ∧
      lastAccess.request.isSequence = false) ∧
    ((inAccess lastAccess).window 6).fields.retryLimit < ({ lastAccess with retryCount := 2 } : LinkEntry).retryCount + 1 ∧
    ({ lastAccess with retryCount := 1 } : LinkEntry).retryCount + 1 ≤
      ((inAccess lastAccess).window 6).fields.retryLimit ∧
    lastAccess.stopRequested = false ∧ lastAccess.deadlinePassed (inAccess lastAccess).now = false ∧
    lastAccess.deadlinePassed 50000000 = true ∧
    ((stepEntry testStep).request.isSequence = true ∧ linkTurn.window = (stepEntry testStep).window ∧
      (stepEntry testStep).retryCount + 1 ≤ ((inAccess (stepEntry testStep)).window 6).fields.retryLimit) := by decide

theorem witness_ModifyWritesComputedValue :
    (inAccess (stepEntry modifyStep)).entryOf 3 = some (stepEntry modifyStep) ∧
    (inAccess (stepEntry modifyStep)).bus.state = .access access ∧
    (inAccess (stepEntry modifyStep)).bus.turn = some linkTurn ∧ linkTurn.holder = .link 3 ∧
    linkTurn.window = (stepEntry modifyStep).window ∧ (stepEntry modifyStep).request = .sequence [modifyStep] ∧
    [modifyStep][(stepEntry modifyStep).done]? = some modifyStep ∧ modifyStep.op = .modify 0xFE 0x01 ∧
    (stepEntry modifyStep).accessIndex + 1 =
      ((inAccess (stepEntry modifyStep)).window 6).fields.lane.accesses modifyStep.unit ∧
    (access.profile.strobeEnd atFour).2 = true := by decide

def readOn : LinkEntry := { stopping with stopRequested := false }

theorem witness_ModifyWritesComputedValue_goesOn :
    ((inAccess (entryOf readOne .active)).entryOf 3 = some (entryOf readOne .active) ∧
      (entryOf readOne .active).request.workAt 0 = some readStep ∧
      (entryOf readOne .active).accessIndex + 1 <
        readStep.accesses ((inAccess (entryOf readOne .active)).window 6).fields.lane) ∧
    ((inAccess readOn).entryOf 3 = some readOn ∧ readOn.stopRequested = false ∧
      readOn.request.workAt readOn.done = some { readStep with address := 0x050012 } ∧
      readOn.accessIndex + 1 =
        ({ readStep with address := 0x050012 } : SeqStep).accesses ((inAccess readOn).window 6).fields.lane ∧
      readOn.request.workAt (readOn.done + 1) = some { readStep with address := 0x050014 }) := by decide

theorem witness_PollTurnEnds :
    inPoll.phase = .running ∧ inPoll.bus.state = .access access ∧ inPoll.bus.turn = some pollTurn ∧
    pollTurn.holder = .poll 9 ∧ inPoll.watchOf 9 = some watched ∧
    pollTurn.pollIndex + 1 = (inPoll.window pollTurn.window).fields.lane.accesses watched.config.unit ∧
    (access.profile.strobeEnd atFour).2 = true ∧ (access.profile.strobeEnd never).2 = false := by decide

/-- Window 6 is one failure short of its declare count. -/
def suspect : State :=
  (inAccess lastAccess).setWindow 6
    { opened with health := { state := .suspect, failureRun := 1, successRun := 0 } }

theorem witness_DeclarationFlushes :
    suspect.phase = .running ∧ suspect.bus.state = .access access ∧ suspect.bus.turn = some linkTurn ∧
      (suspect.window access.window).health.state ≠ .failed ∧
      exec (.accessEnd never false 0#16) suspect = .next (after (.accessEnd never false 0#16) suspect) ∧
      ((after (.accessEnd never false 0#16) suspect).window access.window).health.state = .failed :=
  ⟨by decide, by decide, by decide, by decide, rfl, by decide⟩

/-- Another READ waits on the window that is declared FAILED. -/
def crowded : State :=
  { suspect with queue := suspect.queue ++ [{ entryOf readOne .waiting with tag := 4 }] }

/-- The first of two accesses of a poll. -/
def pollFirst : State := inPoll.setWatch 9 (some { watched with config := { config with unit := .two } })

theorem witness_DeclarationFlushes_flushed :
    (crowded.bus.state = .access access ∧ (crowded.queue.map LinkEntry.tag).Nodup ∧
      { entryOf readOne .waiting with tag := 4 } ∈ crowded.queue ∧ readOne.isBus = true ∧
      linkTurn.holder ≠ .link 4 ∧
      ((after (.accessEnd never false 0#16) crowded).window access.window).health.state = .failed) ∧
    ((∀ id, linkTurn.holder ≠ .poll id) ∧
      (pollFirst.bus.state = .access access ∧ pollFirst.bus.turn = some pollTurn ∧
        pollFirst.watchOf 9 = some { watched with config := { config with unit := .two } } ∧
        pollTurn.pollIndex + 1 < (pollFirst.window pollTurn.window).fields.lane.accesses .two)) :=
  ⟨⟨by decide, by decide, by decide, by decide, by decide, by decide⟩, nofun, by decide, by decide, by decide,
    by decide⟩

/-- The first of two accesses of a poll ends OK: the value read so far is kept, the entry is not evaluated (R106). -/
theorem witness_PollTurnEnds_goesOn :
    pollFirst.phase = .running ∧ pollFirst.bus.turn = some pollTurn ∧ pollTurn.holder = .poll 9 ∧
    pollFirst.watchOf 9 = some { watched with config := { config with unit := .two } } ∧
    (access.profile.strobeEnd atFour).2 = true ∧
    pollTurn.pollIndex + 1 < (pollFirst.window pollTurn.window).fields.lane.accesses .two ∧
    (after (.accessEnd atFour false 0x0037#16) pollFirst).bus.turn =
      some { pollTurn with pollIndex := 1, pollHeld := 0x37 } := by decide

/-- A success from SUSPECT and in HEALTHY, and a FAILED window that recovers at its second success (R86, R90). -/
theorem witness_RunsAreCounted_health :
    ({ Health.fresh with state := .suspect, failureRun := 1 } : Health).state = .suspect ∧
    Health.fresh.state = .healthy ∧ failedWindow.health.state = .failed ∧ failedWindow.health.successRun = 0 ∧
    failedWindow.health.successRun + 1 ≠ 2 ∧ failedWindow.health.successRun + 1 = 1 ∧ 1 ≤ 2 ∧
    (∀ i ∈ [HealthInput.success, .neutral, .success], i ≠ .failure) ∧
    2 ≤ [HealthInput.success, .neutral, .success].count .success ∧
    ¬ 2 ≤ [HealthInput.success, .neutral].count .success := by decide

theorem witness_RunsAreCounted :
    (config.mode ≠ .track ∧ watched.state = .quiet ∧ (∀ u ∈ [0x101#32] ++ [1#32], config.holds u = true) ∧
      [0x101#32].length + 1 = config.setCount ∧ ([] : List Value).length + 1 < config.setCount) ∧
    ((∀ u ∈ [] ++ [0#32], config.holds u = false) ∧ ([] : List Value).length + 1 = config.clearCount ∧
      [0#32].length + 1 < ({ config with clearCount := 15 } : WatchConfig).clearCount) ∧
    (2 ≤ 2 ∧ ∀ i ∈ [HealthInput.failure, .neutral, .failure], i ≠ .success) := by
  refine ⟨⟨by decide, by decide, ?_, by decide, by decide⟩, ⟨?_, by decide, by decide⟩, by decide⟩ <;>
    simp [WatchConfig.holds, config]

/-- A TRACK entry with 1 stored: a new masked value twice, the stored one, and a third in SETTLING. -/
def tracked (state : WatchState) : WatchEntry :=
  { WatchEntry.fresh { config with mode := .track } with state := state, stored := some 1 }

theorem witness_RunsAreCounted_track :
    (tracked .notSet).config.mode = .track ∧
    ((tracked .steady).stored = some 1 ∧ (tracked .steady).state = .steady ∧ 0x101#32 &&& config.mask = 1#32 ∧
      2#32 &&& config.mask ≠ 1#32 ∧ (∀ w ∈ [0x102#32], w &&& config.mask = 2#32 &&& config.mask) ∧
      [0x102#32].length + 1 = (tracked .steady).config.setCount ∧
      ([] : List Value).length + 1 < (tracked .steady).config.setCount) ∧
    ((tracked (.settling 2 1)).state = .settling 2 1 ∧ 3#32 &&& config.mask ≠ 1#32 ∧
      3#32 &&& config.mask ≠ 2#32) := by
  refine ⟨by decide, ⟨by decide, by decide, by decide, by decide, ?_, by decide, by decide⟩, by decide⟩
  simp [config]

theorem witness_WaitingAccessStarts :
    (inGap.phase = .running ∧ inGap.bus.state = .gap ∧ inGap.bus.turn = some linkTurn ∧
      inGap.workOf linkTurn = some (readStep, 0, 0)) ∧
    (({ quiet with bus := { Bus.reset with state := .gap, lendPending := true } } : State).bus.state = .gap ∧
      ({ quiet with bus := { Bus.reset with state := .gap, lendPending := true } } : State).bus.turn = none) ∧
    (({ inGap with bus := { inGap.bus with state := .retryWait 0 } } : State).bus.state = .retryWait 0 ∧
      ({ inGap with bus := { inGap.bus with state := .retryWait 0 } } : State).workOf linkTurn =
        some (readStep, 0, 0)) := by decide

theorem witness_LreqnActsByState :
    inGap.phase = .running ∧ (inGap.bus.state = .idle → inGap.bus.lendPending = false) ∧ quiet.bus.state = .idle ∧
      quiet.bus.lendPending = false := by decide

theorem witness_LendTakenAndReclaimed :
    (({ quiet with bus := { Bus.reset with state := .gap, lendPending := true } } : State).phase = .running ∧
      ({ quiet with bus := { Bus.reset with state := .gap, lendPending := true } } : State).bus.turn = none ∧
      ({ quiet with bus := { Bus.reset with state := .gap, lendPending := true } } : State).bus.gapRecord = none) ∧
    (({ quiet with bus := { Bus.reset with state := .reclaim 0 } } : State).bus.lendPending = false ∧
      ({ quiet with bus := { Bus.reset with state := .reclaim 0, lendPending := true } } : State).bus.state =
        .reclaim 0) := by decide

theorem witness_TimedEntryEvents :
    (queued (entryOf readOne .deferred)).phase = .running ∧
    (queued (entryOf readOne .deferred)).entryOf 3 = some (entryOf readOne .deferred) ∧
    (entryOf readOne .deferred).state = .deferred ∧
    (entryOf readOne .waiting).deadline = some { time := 50000000, passed := false } ∧
    (entryOf readOne .waiting).state ≠ .active ∧
    (queued (entryOf readOne .active)).entryOf 3 = some (entryOf readOne .active) := by decide

/-! The laws of the invariants hold in a state with an entry, a notice, a ring, a poll and a turn. -/

def busyState : State :=
  { (inAccess (entryOf readOne .active)).setWatch 9 (some watched) with
    pollQueue := [9], notices := noticed.notices, intervalNumber := 1 }.setStats 6
    { WindowStats.zero with
      ring := [{ number := 1, tallies := .zero, errored := false, severe := false, unavailable := false }] }

/-- A step of this state answers a next state, as the laws' statements ask. -/
theorem witness_step : ∃ t, step { busyState with pending := [.pollTick] } = .next t := ⟨_, rfl⟩

theorem witness_StepKeepsWindowLaw : busyState.WindowLaw := by unfold State.WindowLaw; decide

theorem witness_StepKeepsQueueLaw : busyState.QueueLaw := by unfold State.QueueLaw; decide
theorem witness_StepKeepsWindowLaw_watch : busyState.WatchLaw := by unfold State.WatchLaw; decide

theorem witness_StepKeepsQueueLaw_service : busyState.ServiceLaw := by
  have hbus : busyState.bus = { Bus.reset with state := .access access, turn := some linkTurn } := rfl
  refine ⟨by decide, ?_, ?_, by decide, by decide, by decide⟩ <;> rw [hbus]
  · rintro turn ⟨⟩ tag ⟨⟩
    decide
  · rintro a ⟨⟩ turn ⟨⟩
    rfl
theorem witness_StepKeepsNoticeLaw : busyState.NoticeLaw := by unfold State.NoticeLaw; decide
theorem witness_StepKeepsRingAndPollLaws : busyState.RingLaw ∧ busyState.PollLaw := by
  unfold State.RingLaw State.PollLaw; decide
theorem witness_StepKeepsBusLaw : busyState.BusLaw := by unfold State.BusLaw; decide

end Sys2Proof.Tests
end

section
/-! PROOFS. The laws of the window table and of the watch list (R9, R14, R86, R95, R98). Most commands leave the two
tables and what is queued for them as they are (`TableFrame`); the others are the taking effect of a window request, an
acceptance, a WATCH_SET and a reset, and each of them keeps the laws by the checks the spec has it make. -/

namespace Sys2Proof.Machine

/-! ## Ranges that share no byte (R9) -/

theorem WindowFields.overlaps_comm (f g : WindowFields) : f.overlaps g = g.overlaps f := by
  simp only [WindowFields.overlaps, Bool.and_comm]

theorem Window.contains_iff {x : Window} {address : Nat} :
    x.contains address = true ↔ x.isOpen = true ∧ x.fields.base ≤ address ∧ address < x.fields.limit := by
  simp [Window.contains, and_assoc]

theorem WinId.mem_all (w : WinId) : w ∈ WinId.all := by
  revert w; decide

theorem WatchId.mem_all (id : WatchId) : id ∈ WatchId.all := by
  revert id; decide

/-- The window a decode finds holds the address (R8). -/
theorem State.contains_of_decode {s : State} {address : Nat} {w : WinId} (h : s.decode address = some w) :
    (s.window w).contains address = true := by
  simpa using List.find?_some h

/-- Two OPEN windows that hold the same address overlap. -/
theorem Window.overlaps_of_contains {x y : Window} {address : Nat} (hx : x.contains address = true)
    (hy : y.contains address = true) : x.fields.overlaps y.fields = true := by
  obtain ⟨-, hxbase, hxlimit⟩ := Window.contains_iff.mp hx
  obtain ⟨-, hybase, hylimit⟩ := Window.contains_iff.mp hy
  simp only [WindowFields.overlaps, Bool.and_eq_true, decide_eq_true_eq]
  omega

/-- By R9 an address decodes to whichever OPEN window holds it (R8). -/
theorem State.decode_of_contains {s : State} (hlaw : s.WindowLaw) {address : Nat} {w : WinId}
    (h : (s.window w).contains address = true) : s.decode address = some w := by
  obtain ⟨-, hapart, -⟩ := hlaw
  cases hfound : s.decode address with
  | none => exact absurd h (List.find?_eq_none.mp hfound w (WinId.mem_all w))
  | some v =>
    have hv := State.contains_of_decode hfound
    by_contra hne
    have hoverlap := hapart v w (by simpa using hne) (Window.contains_iff.mp hv).1 (Window.contains_iff.mp h).1
    rw [Window.overlaps_of_contains hv h] at hoverlap
    cases hoverlap

/-! ## Sound windows (R86) -/

/-- The health machine keeps to its table (R86). -/
theorem Health.take_wellFormed {h : Health} {declareCount clearCount : Nat} (hdeclare : 2 ≤ declareCount)
    (hclear : 1 ≤ clearCount) (hwf : h.wellFormed declareCount clearCount = true) (input : HealthInput) :
    (h.take declareCount clearCount input).1.wellFormed declareCount clearCount = true := by
  cases input with
  | neutral => exact hwf
  | success =>
    cases hstate : h.state <;> simp only [Health.take, hstate]
    · exact hwf
    · rfl
    · split
      · rfl
      · simp only [Health.wellFormed, hstate, Bool.and_eq_true, decide_eq_true_eq] at hwf ⊢
        omega
  | failure =>
    cases hstate : h.state <;> simp only [Health.take, hstate]
    · simp only [Health.wellFormed, Bool.and_eq_true, decide_eq_true_eq, and_true]
      omega
    · simp only [Health.wellFormed, hstate, Bool.and_eq_true, decide_eq_true_eq] at hwf
      split <;> simp only [Health.wellFormed, Bool.and_eq_true, decide_eq_true_eq, true_and, and_true] <;> omega
    · simp only [Health.wellFormed, hstate, Bool.and_eq_true, decide_eq_true_eq] at hwf ⊢
      omega

/-- The ranges of R2 to R6, one by one (R14). -/
theorem WindowFields.inRange_iff {f : WindowFields} :
    f.inRange = true ↔
      f.base < 0x400000 ∧ 8 ≤ f.sizeExp ∧ f.sizeExp ≤ 22 ∧ f.base % 2 ^ f.sizeExp = 0 ∧ f.select ≤ 5 ∧
      f.lane ≠ .unset ∧ f.rights ≠ .unset ∧ f.setup ≤ 3 ∧ 1 ≤ f.strobe ∧ f.strobe ≤ 32 ∧ f.hold ≤ 3 ∧
      f.readyMode ≠ .unset ∧ 16 ≤ f.readyLimit ∧ f.readyLimit ≤ 4096 ∧ f.releaseGap ≤ 7 ∧ f.retryLimit ≤ 15 ∧
      1 ≤ f.retryBackoff ∧ f.retryBackoff ≤ 1023 ∧ 2 ≤ f.declareCount ∧ f.declareCount ≤ 15 ∧ 1 ≤ f.clearCount ∧
      f.clearCount ≤ 15 ∧ 1 ≤ f.severeThreshold ∧ f.severeThreshold ≤ 65535 := by
  simp only [WindowFields.inRange, Bool.and_eq_true, decide_eq_true_eq, and_assoc]
  rfl

theorem WindowFields.counts_of_inRange {f : WindowFields} (h : f.inRange = true) :
    2 ≤ f.declareCount ∧ 1 ≤ f.clearCount := by
  obtain ⟨-, -, -, -, -, -, -, -, -, -, -, -, -, -, -, -, -, -, hdeclare, -, hclear, -⟩ := WindowFields.inRange_iff.mp h
  exact ⟨hdeclare, hclear⟩

/-- A window stays sound when its health machine takes an input (R86). -/
theorem Window.sound_take {x : Window} (h : x.sound = true) (input : HealthInput) :
    ({ x with health := (x.health.take x.fields.declareCount x.fields.clearCount input).1 } : Window).sound = true := by
  simp only [Window.sound, Bool.or_eq_true, Bool.and_eq_true] at h ⊢
  refine h.imp id fun ⟨hrange, hhealth⟩ => ⟨hrange, ?_⟩
  obtain ⟨hdeclare, hclear⟩ := WindowFields.counts_of_inRange hrange
  exact Health.take_wellFormed hdeclare hclear hhealth input

/-- An entry that a WINDOW_SET has just written is sound (R18). -/
theorem Window.sound_of_inRange {f : WindowFields} (h : f.inRange = true) :
    ({ isOpen := true, fields := f, health := .fresh } : Window).sound = true := by
  simp [Window.sound, h, Health.fresh, Health.wellFormed]

/-! ## A watch entry inside a window (R95, R98) -/

/-- The unit of a watch entry stands inside the window, which is OPEN and permits reads (R95). -/
def Window.serves (x : Window) (c : WatchConfig) : Prop :=
  x.isOpen = true ∧ x.fields.base ≤ c.address ∧
    c.address + c.unit.bytes ≤ x.fields.base + 2 ^ x.fields.sizeExp ∧ x.fields.rights.permitsRead = true

theorem UnitSize.bytes_pos (u : UnitSize) : 1 ≤ u.bytes := by cases u <;> decide

theorem Window.serves.contains {x : Window} {c : WatchConfig} (h : x.serves c) : x.contains c.address = true := by
  obtain ⟨hopen, hbase, hlimit, -⟩ := h
  have := c.unit.bytes_pos
  exact Window.contains_iff.mpr ⟨hopen, hbase, by unfold WindowFields.limit; omega⟩

theorem State.watchLaw_iff {s : State} :
    s.WatchLaw ↔ ∀ id : WatchId, ∀ x ∈ s.watchOf id,
      x.config.address % x.config.unit.bytes = 0 ∧ ∃ w, (s.window w).serves x.config := Iff.rfl

/-- Base and limit of a window in range are multiples of 256 (R2). -/
theorem WindowFields.aligned_of_inRange {f : WindowFields} (h : f.inRange = true) : f.limit % 256 = 0 := by
  obtain ⟨-, hsize, -, hbase, -⟩ := WindowFields.inRange_iff.mp h
  have hpow : (256 : Nat) ∣ 2 ^ f.sizeExp := pow_dvd_pow 2 hsize
  have hbase : 2 ^ f.sizeExp ∣ f.base := Nat.dvd_of_mod_eq_zero hbase
  exact Nat.mod_eq_zero_of_dvd (Nat.dvd_add (hpow.trans hbase) hpow)

/-- An aligned unit whose first byte is below an aligned limit ends below it (R2, R10). -/
theorem UnitSize.end_le_of_aligned (u : UnitSize) {address limit : Nat} (haligned : address % u.bytes = 0)
    (hlimit : limit % 256 = 0) (h : address < limit) : address + u.bytes ≤ limit := by
  cases u <;> simp only [UnitSize.bytes] at haligned ⊢ <;> omega

/-! ## What keeps the laws -/

/-- From `s` to `t` the law of the windows is kept, and with it that of the watch list. -/
def State.KeepsTableLaws (s t : State) : Prop :=
  (s.WindowLaw → t.WindowLaw) ∧ (s.WindowLaw → s.WatchLaw → t.WatchLaw)

theorem State.KeepsTableLaws.refl (s : State) : s.KeepsTableLaws s := ⟨id, fun _ => id⟩

theorem State.KeepsTableLaws.trans {s t u : State} (h : s.KeepsTableLaws t) (h' : t.KeepsTableLaws u) :
    s.KeepsTableLaws u :=
  ⟨fun hw => h'.1 (h.1 hw), fun hw hx => h'.2 (h.1 hw) (h.2 hw hx)⟩

/-- The same, with the later part named first. -/
theorem State.KeepsTableLaws.after {s t u : State} (h' : t.KeepsTableLaws u) (h : s.KeepsTableLaws t) :
    s.KeepsTableLaws u := h.trans h'

/-- From `s` to `t` every window keeps its state and its fields, and stays sound; every queued request and every watch
entry's configuration was there before. -/
structure State.TableFrame (s t : State) : Prop where
  isOpen : ∀ w, (t.window w).isOpen = (s.window w).isOpen
  fields : ∀ w, (t.window w).fields = (s.window w).fields
  sound : ∀ w, (s.window w).sound = true → (t.window w).sound = true
  queue : ∀ e ∈ t.queue, ∃ y ∈ s.queue, e.request = y.request
  watch : ∀ id, ∀ x ∈ t.watchOf id, ∃ y ∈ s.watchOf id, x.config = y.config

theorem LinkEntry.fieldsInRange_congr {e y : LinkEntry} (h : e.request = y.request) :
    e.fieldsInRange = y.fieldsInRange := by
  unfold LinkEntry.fieldsInRange
  rw [h]

theorem State.TableFrame.keeps {s t : State} (h : s.TableFrame t) : s.KeepsTableLaws t := by
  refine ⟨fun ⟨hsound, hapart, hqueue⟩ => ⟨fun w => h.sound w (hsound w), fun w v => ?_, fun e he => ?_⟩,
    fun _ hlaw id x hx => ?_⟩
  · rw [h.isOpen, h.isOpen, h.fields, h.fields]
    exact hapart w v
  · obtain ⟨y, hy, heq⟩ := h.queue e he
    rw [LinkEntry.fieldsInRange_congr heq]
    exact hqueue y hy
  · obtain ⟨y, hy, heq⟩ := h.watch id x hx
    obtain ⟨haligned, w, hserves⟩ := hlaw id y hy
    rw [heq]
    exact ⟨haligned, w, by rw [h.isOpen, h.fields]; exact hserves⟩

/-- The tables stand as they were, and every queued request was queued before. -/
theorem State.keeps_of_queue {s t : State} (hwindows : t.windows = s.windows) (hwatch : t.watch = s.watch)
    (hqueue : ∀ e ∈ t.queue, ∃ y ∈ s.queue, e.request = y.request) : s.KeepsTableLaws t :=
  State.TableFrame.keeps
    { isOpen := fun w => by rw [State.window_congr hwindows]
      fields := fun w => by rw [State.window_congr hwindows]
      sound := fun w => by rw [State.window_congr hwindows]; exact id
      queue := hqueue
      watch := fun id x hx => ⟨x, by rwa [← State.watchOf_congr hwatch], rfl⟩ }

/-- The tables and the queue stand as they were. -/
theorem State.keeps_of_eq {s t : State} (hwindows : t.windows = s.windows) (hwatch : t.watch = s.watch)
    (hqueue : t.queue = s.queue) : s.KeepsTableLaws t :=
  State.keeps_of_queue hwindows hwatch fun e he => ⟨e, hqueue ▸ he, rfl⟩

theorem State.keeps_transmit (s : State) : s.KeepsTableLaws s.transmit :=
  State.keeps_of_eq (by simp) (by simp) (by simp)

theorem State.keeps_complete (s : State) (e : LinkEntry) (status : Status) :
    s.KeepsTableLaws (s.complete e status) :=
  State.keeps_of_queue (by simp) (by simp) fun x hx => by
    rw [State.complete_queue] at hx
    exact ⟨x, List.mem_of_mem_filter hx, rfl⟩

/-- An entry's new progress leaves its request as it is. -/
theorem State.updateEntry_requests {s : State} {e y : LinkEntry} (hy : y ∈ s.queue) (h : e.request = y.request) :
    ∀ x ∈ (s.updateEntry e).queue, ∃ z ∈ s.queue, x.request = z.request := by
  intro x hx
  obtain ⟨z, hz, rfl⟩ := List.mem_map.mp hx
  split
  · exact ⟨y, hy, h⟩
  · exact ⟨z, hz, rfl⟩

theorem State.keeps_updateEntry {s : State} {e y : LinkEntry} (hy : y ∈ s.queue) (h : e.request = y.request) :
    s.KeepsTableLaws (s.updateEntry e) :=
  State.keeps_of_queue (by simp) (by simp) (State.updateEntry_requests hy h)

theorem State.keeps_answer (s : State) (kind tagByte : Byte) (status : Status) (contents : List Byte) :
    s.KeepsTableLaws (s.answer kind tagByte status contents) :=
  State.keeps_of_eq (by simp) (by simp) (by simp)

theorem State.keeps_store (s : State) (t : Tag) (phase : Bool) (r : Reply) :
    s.KeepsTableLaws (s.store t phase r) :=
  State.keeps_of_eq (by simp) (by simp) (by simp)

theorem State.keeps_list (s : State) (t : Tag) : s.KeepsTableLaws (s.list t) := by
  rw [State.list_eq]
  exact State.keeps_of_eq rfl rfl rfl

/-- An acceptance keeps the laws when the fields of a WINDOW_SET are in range (R14, R44). -/
theorem State.keeps_accept {s : State} {t : Tag} {tagByte : Byte} {w : WinId} {r : LinkRequest}
    (h : ∀ f, r = .windowSet f → f.inRange = true) : s.KeepsTableLaws (s.accept t tagByte w r) := by
  refine ⟨fun ⟨hsound, hapart, hqueue⟩ => ⟨hsound, hapart, fun e he => ?_⟩, fun _ hlaw => hlaw⟩
  have he : e ∈ s.queue ++ [s.newEntry t tagByte w r] := he
  rcases List.mem_append.mp he with he | he
  · exact hqueue e he
  · obtain rfl := List.mem_singleton.mp he
    cases r <;> first | rfl | exact h _ rfl

/-- Every window as after reset, nothing queued, no watch entry (R1, R43, R95). -/
theorem State.tableLaws_of_reset {t : State} (hwindows : t.windows = Vector.replicate 8 Window.reset)
    (hqueue : t.queue = []) (hwatch : t.watch = Vector.replicate 32 none) : t.WindowLaw ∧ t.WatchLaw := by
  have hwindow : ∀ w, t.window w = Window.reset := fun w => by simp [State.window, hwindows]
  have hnone : ∀ id, t.watchOf id = none := fun id => by simp [State.watchOf, hwatch]
  refine ⟨⟨fun w => ?_, fun w v _ hopen => ?_, fun e he => ?_⟩, fun id x hx => ?_⟩
  · rw [hwindow]; rfl
  · rw [hwindow] at hopen; cases hopen
  · rw [hqueue] at he; cases he
  · rw [hnone] at hx; cases hx

theorem State.keeps_of_reset {s t : State} (hwindows : t.windows = Vector.replicate 8 Window.reset)
    (hqueue : t.queue = []) (hwatch : t.watch = Vector.replicate 32 none) : s.KeepsTableLaws t :=
  have h := State.tableLaws_of_reset hwindows hqueue hwatch
  ⟨fun _ => h.1, fun _ _ => h.2⟩

end Sys2Proof.Machine
end

section
/-! PROOFS. Every command keeps the laws of the window table and of the watch list, command by command, and so does
every step. -/

namespace Sys2Proof.Machine

/-! ## Window requests (R16 to R19) -/

/-- No OPEN window but the written one overlaps the new range (R17 check 1). -/
theorem State.overlapsOther_eq_false {s : State} {w : WinId} {f : WindowFields} :
    s.overlapsOther w f = false ↔
      ∀ v : WinId, v ≠ w → (s.window v).isOpen = true → f.overlaps (s.window v).fields = false := by
  simp only [State.overlapsOther, List.any_eq_false, WinId.mem_all, true_implies, Bool.and_eq_true,
    decide_eq_true_eq, not_and, Bool.not_eq_true, and_imp]

/-- The watch entries of a window are those whose address decodes to it (R17). -/
theorem State.mem_watchersOf {s : State} {w : WinId} {c : WatchConfig} :
    c ∈ s.watchersOf w ↔ ∃ id, ∃ x, s.watchOf id = some x ∧ s.decode x.config.address = some w ∧ x.config = c := by
  simp only [State.watchersOf, List.mem_filterMap, WatchId.mem_all, true_and]
  refine exists_congr fun id => ?_
  cases s.watchOf id with
  | none => simp
  | some x => simp

theorem State.keeps_setStats (s : State) (w : WinId) (x : WindowStats) : s.KeepsTableLaws (s.setStats w x) :=
  State.keeps_of_eq rfl rfl rfl

/-- A window that is written with fields in range and apart from the other OPEN windows, and that serves every watch
entry it held, keeps the laws (R17, R18). -/
theorem State.keeps_setWindow_open {s : State} {w : WinId} {f : WindowFields} (hrange : s.WindowLaw → f.inRange = true)
    (hapart : s.overlapsOther w f = false)
    (hwatchers : ∀ c ∈ s.watchersOf w, f.holdsUnit c = true ∧ f.rights.permitsRead = true) :
    s.KeepsTableLaws (s.setWindow w { isOpen := true, fields := f, health := .fresh }) := by
  have hother := State.overlapsOther_eq_false.mp hapart
  refine ⟨fun hlaw => ⟨fun v => ?_, fun v u hne => ?_, hlaw.2.2⟩, fun hlaw hwatch id x hx => ?_⟩
  · rw [State.window_setWindow]
    split
    · exact Window.sound_of_inRange (hrange hlaw)
    · exact hlaw.1 v
  · rw [State.window_setWindow, State.window_setWindow]
    by_cases hv : w = v
    · subst hv
      rw [if_pos rfl, if_neg hne]
      exact fun _ hopen => hother u (Ne.symm hne) hopen
    · rw [if_neg hv]
      by_cases hu : w = u
      · subst hu
        rw [if_pos rfl, WindowFields.overlaps_comm]
        exact fun hopen _ => hother v hne hopen
      · rw [if_neg hu]
        exact hlaw.2.1 v u hne
  · obtain ⟨haligned, v, hserves⟩ := State.watchLaw_iff.mp hwatch id x hx
    refine ⟨haligned, v, ?_⟩
    rw [State.window_setWindow]
    split
    · subst v
      have hdecode := State.decode_of_contains hlaw hserves.contains
      obtain ⟨hholds, hreads⟩ := hwatchers x.config (State.mem_watchersOf.mpr ⟨id, x, hx, hdecode, rfl⟩)
      simp only [WindowFields.holdsUnit, Bool.and_eq_true, decide_eq_true_eq] at hholds
      exact ⟨rfl, hholds.1, hholds.2, hreads⟩
    · exact hserves

/-- A window that holds no watch entry may be closed (R17, R19). -/
theorem State.keeps_setWindow_close {s : State} {w : WinId} {f : WindowFields} {h : Health}
    (hwatchers : s.watchersOf w = []) :
    s.KeepsTableLaws (s.setWindow w { isOpen := false, fields := f, health := h }) := by
  refine ⟨fun hlaw => ⟨fun v => ?_, fun v u hne => ?_, hlaw.2.2⟩, fun hlaw hwatch id x hx => ?_⟩
  · rw [State.window_setWindow]
    split
    · rfl
    · exact hlaw.1 v
  · rw [State.window_setWindow, State.window_setWindow]
    split
    · exact fun hopen => nomatch hopen
    · split
      · exact fun _ hopen => nomatch hopen
      · exact hlaw.2.1 v u hne
  · obtain ⟨haligned, v, hserves⟩ := State.watchLaw_iff.mp hwatch id x hx
    refine ⟨haligned, v, ?_⟩
    rw [State.window_setWindow, if_neg]
    · exact hserves
    · rintro rfl
      have hmem : x.config ∈ s.watchersOf w :=
        State.mem_watchersOf.mpr ⟨id, x, hx, State.decode_of_contains hlaw hserves.contains, rfl⟩
      rw [hwatchers] at hmem
      cases hmem

/-- The oldest item bound to a window is queued and bound to it (R46). -/
theorem State.mem_of_oldestOn {s : State} {w : WinId} {e : LinkEntry} (h : s.oldestOn w = some e) :
    e ∈ s.queue ∧ e.window = w :=
  ⟨List.mem_of_find?_eq_some h, by simpa using List.find?_some h⟩

/-- A window request that may take effect is the oldest item of a window that is not in use (R16). -/
theorem State.readyRequest_eq_some {s : State} {w : WinId} {e : LinkEntry} :
    s.readyRequest w = some e ↔ s.oldestOn w = some e ∧ e.request.isBus = false ∧ s.inUse w = false := by
  unfold State.readyRequest
  cases s.oldestOn w with
  | none => simp
  | some y =>
    simp only [Option.some.injEq, Option.ite_none_left_eq_some, Bool.or_eq_true, not_or, Bool.not_eq_true]
    constructor
    · rintro ⟨h, rfl⟩
      exact ⟨rfl, h⟩
    · rintro ⟨rfl, h⟩
      exact ⟨h, rfl⟩

theorem State.keeps_takesEffect (s : State) (w : WinId) : s.KeepsTableLaws (s.takesEffect w) := by
  unfold State.takesEffect
  split
  · exact .refl s
  · rename_i e hready
    obtain ⟨holdest, hwindow, -⟩ := State.readyRequest_eq_some.mp hready
    have hmem := (State.mem_of_oldestOn holdest).1
    unfold State.applyWindowRequest
    split
    · exact s.keeps_complete e _
    · rename_i hcheck
      refine .trans ?_ (State.keeps_complete _ e _)
      refine .trans ?_ (State.keeps_setStats _ w _)
      cases hr : e.request with
      | windowSet f =>
        simp only [State.windowCheck, hr] at hcheck
        split at hcheck
        · cases hcheck
        · rename_i hapart
          split at hcheck
          · rename_i hall
            refine State.keeps_setWindow_open (fun hlaw => ?_) (by simpa using hapart) (by simpa using hall)
            have := hlaw.2.2 e hmem
            simpa only [LinkEntry.fieldsInRange, hr] using this
          · cases hcheck
      | windowClose =>
        simp only [State.windowCheck, hr] at hcheck
        split at hcheck
        · exact State.keeps_setWindow_close (by simpa using ‹(s.watchersOf w).isEmpty = true›)
        · cases hcheck
      | _ => simp [LinkRequest.isBus, hr] at hwindow

/-! ## The bus, the arbiter and the timed events -/

theorem State.keeps_endTurn (s : State) : s.KeepsTableLaws s.endTurn :=
  State.keeps_of_eq (by simp) (by simp) (by simp)

theorem State.keeps_grant (s : State) : s.KeepsTableLaws s.grant := by
  unfold State.grant
  split
  · split
    · exact .refl s
    · rename_i e hchoose
      unfold State.grantLink
      split
      · exact s.keeps_complete e _
      · refine State.keeps_of_queue (by simp) (by simp) fun x hx => ?_
        rw [State.beginTurn_queue] at hx
        have hcandidate : s.linkCandidate = some e := by
          unfold State.choose at hchoose
          split at hchoose <;> (try split at hchoose) <;> simp_all
        exact State.updateEntry_requests (e := { e with state := .active, retryTime := none })
          (List.mem_of_find?_eq_some hcandidate) rfl x hx
    · unfold State.grantPoll
      split
      · exact .refl s
      · exact State.keeps_of_eq (by simp) (by simp) (by simp)
  · exact .refl s

theorem State.keeps_gapEnd (s : State) : s.KeepsTableLaws s.gapEnd := by
  unfold State.gapEnd
  dsimp only
  repeat' split
  all_goals exact State.keeps_of_eq (by simp) (by simp) (by simp)

theorem State.keeps_retryWaitEnd (s : State) : s.KeepsTableLaws s.retryWaitEnd := by
  unfold State.retryWaitEnd
  split <;> exact State.keeps_of_eq (by simp) (by simp) (by simp)

theorem State.keeps_lreqAsserted (s : State) : s.KeepsTableLaws s.lreqAsserted := by
  unfold State.lreqAsserted
  repeat' split
  all_goals exact State.keeps_of_eq (by simp) (by simp) (by simp)

theorem State.keeps_lreqWithdrawn (s : State) : s.KeepsTableLaws s.lreqWithdrawn := by
  unfold State.lreqWithdrawn
  repeat' split
  all_goals exact State.keeps_of_eq (by simp) (by simp) (by simp)

theorem State.keeps_lendTaken (s : State) : s.KeepsTableLaws s.lendTaken := by
  unfold State.lendTaken
  repeat' split
  all_goals exact State.keeps_of_eq (by simp) (by simp) (by simp)

theorem State.keeps_reclaimEnd (s : State) : s.KeepsTableLaws s.reclaimEnd := by
  unfold State.reclaimEnd
  split <;> exact State.keeps_of_eq (by simp) (by simp) (by simp)

theorem State.keeps_backoffEnd (s : State) (t : Tag) : s.KeepsTableLaws (s.backoffEnd t) := by
  unfold State.backoffEnd
  split
  · exact .refl s
  · rename_i e he
    split
    · exact State.keeps_updateEntry (State.entryOf_some he).2 rfl
    · exact .refl s

theorem State.keeps_deadlinePasses (s : State) (t : Tag) : s.KeepsTableLaws (s.deadlinePasses t) := by
  unfold State.deadlinePasses
  split
  · exact .refl s
  · rename_i e he
    split
    · exact .refl s
    · split
      · exact s.keeps_complete e _
      · exact s.keeps_complete e _
      · exact State.keeps_updateEntry (State.entryOf_some he).2 rfl

theorem WatchEntry.tick_config (x : WatchEntry) : x.tick.config = x.config := by
  unfold WatchEntry.tick
  split <;> rfl

theorem State.pollTick_watchOf (s : State) (id : WatchId) :
    s.pollTick.watchOf id = (s.watchOf id).map WatchEntry.tick := by
  simp [State.watchOf]

theorem State.keeps_pollTick (s : State) : s.KeepsTableLaws s.pollTick :=
  State.TableFrame.keeps
    { isOpen := fun _ => rfl
      fields := fun _ => rfl
      sound := fun _ => id
      queue := fun e he => ⟨e, he, rfl⟩
      watch := fun id x hx => by
        rw [State.pollTick_watchOf] at hx
        obtain ⟨y, hy, rfl⟩ := Option.mem_map.mp hx
        exact ⟨y, hy, y.tick_config⟩ }

/-! ## The end of an access (R29) -/

/-- A link entry that takes an outcome completes or is updated, its request as it was (R53, R54). -/
theorem State.linkTakes_state (s : State) (e : LinkEntry) (t : Turn) (o : Outcome) (lines : BusData) :
    ∃ e' : LinkEntry,
      ((∃ status, (s.linkTakes e t o lines).state = s.complete e' status) ∨
        (s.linkTakes e t o lines).state = s.updateEntry e') ∧ e'.request = e.request := by
  unfold State.linkTakes State.deferral State.unitDone State.stopWith
  split
  · exact ⟨_, .inl ⟨_, rfl⟩, rfl⟩
  · dsimp only
    repeat' split
    all_goals first | exact ⟨_, .inl ⟨_, rfl⟩, rfl⟩ | exact ⟨_, .inr rfl, rfl⟩
  · dsimp only
    repeat' split
    all_goals first | exact ⟨_, .inl ⟨_, rfl⟩, rfl⟩ | exact ⟨_, .inr rfl, rfl⟩

theorem State.linkTakes_requests {s : State} {e : LinkEntry} (he : e ∈ s.queue) (t : Turn) (o : Outcome)
    (lines : BusData) : ∀ x ∈ (s.linkTakes e t o lines).state.queue, ∃ y ∈ s.queue, x.request = y.request := by
  obtain ⟨e', ⟨status, hstate⟩ | hstate, hrequest⟩ := s.linkTakes_state e t o lines
  · rw [hstate, State.complete_queue]
    exact fun x hx => ⟨x, List.mem_of_mem_filter hx, rfl⟩
  · rw [hstate]
    exact State.updateEntry_requests he hrequest

theorem State.linkTakes_watch (s : State) (e : LinkEntry) (t : Turn) (o : Outcome) (lines : BusData) :
    (s.linkTakes e t o lines).state.watch = s.watch := by
  obtain ⟨e', ⟨status, hstate⟩ | hstate, -⟩ := s.linkTakes_state e t o lines <;> rw [hstate] <;> simp

theorem WatchEntry.evaluate_config (x : WatchEntry) (v : Value) : (x.evaluate v).1.config = x.config := by
  unfold WatchEntry.evaluate
  split <;> rfl

/-- A poll's outcome changes the watch entry's progress, never its configuration (R107). -/
theorem State.pollTakes_state (s : State) (id : WatchId) (x : WatchEntry) (t : Turn) (o : Outcome) (lines : BusData) :
    (s.pollTakes id x t o lines).state.queue = s.queue ∧
      ((s.pollTakes id x t o lines).state.watch = s.watch ∨
        ∃ y : WatchEntry, (s.pollTakes id x t o lines).state.watch = (s.setWatch id (some y)).watch ∧
          y.config = x.config) := by
  unfold State.pollTakes State.pollEnds
  cases o with
  | ok =>
    dsimp only
    split
    · exact ⟨rfl, .inl rfl⟩
    · exact ⟨rfl, .inr ⟨_, rfl, WatchEntry.evaluate_config _ _⟩⟩
  | noReady => exact ⟨rfl, .inr ⟨_, rfl, rfl⟩⟩
  | defer => exact ⟨rfl, .inr ⟨_, rfl, rfl⟩⟩

/-- Whoever holds the turn, the requests and the configurations after an outcome were there before. -/
theorem State.holderTakes_tables (s : State) (t : Turn) (o : Outcome) (lines : BusData) :
    (∀ e ∈ (s.holderTakes t o lines).state.queue, ∃ y ∈ s.queue, e.request = y.request) ∧
      ∀ id, ∀ x ∈ (s.holderTakes t o lines).state.watchOf id, ∃ y ∈ s.watchOf id, x.config = y.config := by
  have hsame : (∀ e ∈ s.queue, ∃ y ∈ s.queue, e.request = y.request) ∧
      ∀ id, ∀ x ∈ s.watchOf id, ∃ y ∈ s.watchOf id, x.config = y.config :=
    ⟨fun e he => ⟨e, he, rfl⟩, fun _ x hx => ⟨x, hx, rfl⟩⟩
  unfold State.holderTakes
  split
  · split
    · exact hsame
    · rename_i e he
      refine ⟨State.linkTakes_requests (State.entryOf_some he).2 t o lines, fun id x hx => ?_⟩
      rw [State.watchOf_congr (s.linkTakes_watch e t o lines)] at hx
      exact ⟨x, hx, rfl⟩
  · split
    · exact hsame
    · rename_i id _ _ x hx
      obtain ⟨hqueue, hwatch⟩ := s.pollTakes_state id x t o lines
      refine ⟨by rw [hqueue]; exact hsame.1, fun other z hz => ?_⟩
      rcases hwatch with hwatch | ⟨y, hwatch, hconfig⟩
      · rw [State.watchOf_congr hwatch] at hz
        exact ⟨z, hz, rfl⟩
      · rw [State.watchOf_congr hwatch, State.watchOf_setWatch] at hz
        split at hz
        · subst other
          obtain rfl := Option.mem_some_iff.mp hz
          exact ⟨x, hx, hconfig⟩
        · exact ⟨z, hz, rfl⟩
  · exact hsame

/-- A delivery moves the health of one window by one input, and no more of the tables (R29, R85, R86). -/
theorem State.deliver_tableFrame (s : State) (a : Access) (t : Turn) (o : Outcome) (lines : BusData) :
    s.TableFrame (s.deliver a t o lines).1 := by
  have htables := State.holderTakes_tables
    ({ s with bus := { s.bus with gapRecord := a.gapAfter } }.countOutcome a.window o) t o lines
  refine ⟨fun w => ?_, fun w => ?_, fun w hsound => ?_, fun e he => ?_, fun id x hx => ?_⟩
  · rw [State.deliver_window]; split <;> simp_all
  · rw [State.deliver_window]; split <;> simp_all
  · rw [State.deliver_window]
    split
    · subst w; exact Window.sound_take hsound _
    · exact hsound
  · obtain ⟨y, hqueue, -, hyqueue, -⟩ := s.deliver_queue a t o lines
    rw [hqueue] at he
    have hmem := (State.judge_queue he).1
    rw [hyqueue] at hmem
    exact htables.1 e hmem
  · obtain ⟨-, -, -, -, -, -, -, -, -, -, -, -, -, hwatch, -, -⟩ := s.deliver_frame a t o lines
    rw [State.watchOf_congr hwatch] at hx
    exact htables.2 id x hx

theorem State.keeps_continueTurn (s : State) (t : Turn) (next : TurnNext) :
    s.KeepsTableLaws (s.continueTurn t next) := by
  rw [State.continueTurn_eq]
  exact State.keeps_of_eq rfl rfl rfl

theorem State.keeps_accessEnd (s : State) (ready : List Bool) (deferred : Bool) (lines : BusData) :
    s.KeepsTableLaws (s.accessEnd ready deferred lines) := by
  unfold State.accessEnd
  split
  · exact (s.deliver_tableFrame ..).keeps.trans (State.keeps_continueTurn ..)
  · exact .refl s

/-! ## Requests at the tracker -/

theorem State.keeps_refuse (s : State) (kind : Kind) (t : Tag) (tagByte : Byte) (status : Status) :
    s.KeepsTableLaws (s.refuse kind t tagByte status) := s.keeps_store ..

theorem State.keeps_executed (s : State) (kind : Kind) (t : Tag) (tagByte : Byte) (contents : List Byte) :
    s.KeepsTableLaws (s.executed kind t tagByte contents) := s.keeps_store ..

theorem State.keeps_tagged (s : State) (kind : Kind) (tagByte : Byte) {new : Tag → State → State}
    (h : ∀ t (x : State), x.KeepsTableLaws (new t x)) : s.KeepsTableLaws (s.tagged kind tagByte new) := by
  unfold State.tagged
  split
  · exact s.keeps_answer ..
  · split
    · exact h _ s
    · split
      · exact State.keeps_of_eq rfl rfl rfl
      · exact s.keeps_answer ..
    · split
      · exact s.keeps_list _
      · exact (h _ _).after (State.keeps_of_eq rfl rfl rfl)

theorem checked_eq_ok {α : Type} {ok : Bool} {a b : α} : checked ok a = .ok b ↔ ok = true ∧ a = b := by
  cases ok <;> simp [checked]

theorem ofLength_eq_ok {α : Type} {body : List Byte} {length : Nat} {r : Except Status α} {a : α} :
    ofLength body length r = .ok a ↔ body.length = length ∧ r = .ok a := by
  unfold ofLength
  split <;> simp [*]

/-- What a reader of a bus request answers is no window request (R68 to R70). -/
theorem Kind.isBus_of_busBody {k : Kind} {tagByte : Byte} {body : List Byte} {r : LinkRequest}
    (h : k.busBody tagByte body = .ok r) : r.isBus = true := by
  unfold Kind.busBody at h
  split at h
  · obtain ⟨-, h⟩ := ofLength_eq_ok.mp h
    split at h
    · rw [← (checked_eq_ok.mp h).2]; rfl
    · cases h
  · unfold readWrite at h
    split at h
    · cases h
    · split at h
      · cases h
      · obtain ⟨-, h⟩ := ofLength_eq_ok.mp h
        split at h
        · cases h
        · rw [← (checked_eq_ok.mp h).2]; rfl
  · unfold readSequence at h
    split at h
    · cases h
    · split at h
      · cases h
      · rw [← (checked_eq_ok.mp h).2]; rfl
  · cases h

theorem State.keeps_newBus (s : State) (kind : Kind) (t : Tag) (tagByte : Byte) (body : List Byte) :
    s.KeepsTableLaws (s.newBus kind t tagByte (kind.busBody tagByte body)) := by
  unfold State.newBus
  split
  · exact s.keeps_refuse ..
  · rename_i r hread
    split
    · exact s.keeps_refuse ..
    · refine State.keeps_accept fun f hf => ?_
      have := Kind.isBus_of_busBody hread
      rw [hf] at this
      cases this

/-- A WINDOW_SET that passes its field check carries fields in range (R14). -/
theorem readWindowSet_inRange {tagOk : Bool} {body : List Byte} {w : WinId} {f : WindowFields}
    (h : readWindowSet tagOk body = .ok (w, f)) : f.inRange = true := by
  obtain ⟨-, h⟩ := ofLength_eq_ok.mp h
  split at h
  · obtain ⟨hok, hvalue⟩ := checked_eq_ok.mp h
    simp only [Prod.mk.injEq] at hvalue
    obtain ⟨-, rfl⟩ := hvalue
    simp only [Bool.and_eq_true] at hok
    exact hok.1.2
  · cases h

theorem State.keeps_newWindowRequest {s : State} {kind : Kind} {t : Tag} {tagByte : Byte}
    {r : Except Status (WinId × LinkRequest)} (h : ∀ w f, r = .ok (w, .windowSet f) → f.inRange = true) :
    s.KeepsTableLaws (s.newWindowRequest kind t tagByte r) := by
  unfold State.newWindowRequest
  split
  · exact s.keeps_refuse ..
  · split
    · exact s.keeps_refuse ..
    · exact State.keeps_accept fun f hf => h _ f (by rw [hf])

/-- A WATCH_SET whose checks 2 to 5 pass stands aligned in an OPEN window that permits reads (R98). -/
theorem State.serves_of_checkWatch {s : State} (hlaw : s.WindowLaw) {id : WatchId} {c : WatchConfig}
    (h : s.checkWatch id c = none) : c.address % c.unit.bytes = 0 ∧ ∃ w, (s.window w).serves c := by
  unfold State.checkWatch at h
  split at h
  · cases h
  · split at h
    · cases h
    · rename_i w hdecode
      split at h
      · cases h
      · rename_i hreads
        split at h
        · cases h
        · rename_i haligned
          have haligned : c.address % c.unit.bytes = 0 := by simpa using haligned
          obtain ⟨hopen, hbase, hlimit⟩ := Window.contains_iff.mp (State.contains_of_decode hdecode)
          have hrange : (s.window w).fields.inRange = true := by
            have := hlaw.1 w
            simp only [Window.sound, hopen, Bool.not_true, Bool.false_or, Bool.and_eq_true] at this
            exact this.1
          exact ⟨haligned, w, hopen, hbase,
            c.unit.end_le_of_aligned haligned (WindowFields.aligned_of_inRange hrange) hlimit, by simpa using hreads⟩

theorem State.keeps_newWatchSet (s : State) (t : Tag) (tagByte : Byte) (r : Except Status (WatchId × WatchConfig)) :
    s.KeepsTableLaws (s.newWatchSet t tagByte r) := by
  unfold State.newWatchSet
  split
  · exact s.keeps_refuse ..
  · rename_i id c
    split
    · exact s.keeps_refuse ..
    · rename_i hcheck
      refine (State.keeps_executed ..).after ⟨fun hlaw => hlaw, fun hlaw hwatch other x hx => ?_⟩
      rw [State.watchOf_setWatch] at hx
      split at hx
      · obtain rfl := Option.mem_some_iff.mp hx
        exact State.serves_of_checkWatch hlaw hcheck
      · exact hwatch other x hx

/-- A WATCH_DROP takes one entry from the watch list (R100). -/
theorem State.keeps_dropWatch (s : State) (id : WatchId) : s.KeepsTableLaws (s.dropWatch id) := by
  refine .trans (t := s.setWatch id none) ?_ (State.keeps_of_eq (by simp [State.dropWatch])
    (by simp [State.dropWatch]) (by simp [State.dropWatch]))
  refine ⟨fun hlaw => hlaw, fun _ hwatch other x hx => ?_⟩
  rw [State.watchOf_setWatch] at hx
  split at hx
  · cases hx
  · exact hwatch other x hx

theorem State.keeps_newWatchDrop (s : State) (t : Tag) (tagByte : Byte) (r : Except Status WatchId) :
    s.KeepsTableLaws (s.newWatchDrop t tagByte r) := by
  unfold State.newWatchDrop
  split
  · exact s.keeps_refuse ..
  · split
    · exact s.keeps_refuse ..
    · exact (s.keeps_dropWatch _).trans (State.keeps_executed ..)

theorem State.keeps_newCountersClear (s : State) (t : Tag) (tagByte : Byte) (r : Except Status WinId) :
    s.KeepsTableLaws (s.newCountersClear t tagByte r) := by
  unfold State.newCountersClear
  split
  · exact s.keeps_refuse ..
  · split
    · exact (s.keeps_setStats ..).trans (State.keeps_executed ..)
    · exact s.keeps_refuse ..

theorem State.keeps_newTimingSet (s : State) (t : Tag) (tagByte : Byte) (r : Except Status Timing) :
    s.KeepsTableLaws (s.newTimingSet t tagByte r) := by
  unfold State.newTimingSet
  split
  · exact s.keeps_refuse ..
  · exact (State.keeps_executed ..).after (State.keeps_of_eq rfl rfl rfl)

theorem State.keeps_abortEntry {s : State} {e : LinkEntry} (he : e ∈ s.queue) :
    s.KeepsTableLaws (s.abortEntry e) := by
  unfold State.abortEntry
  split
  · exact s.keeps_complete e _
  · exact s.keeps_complete e _
  · split
    · exact s.keeps_endTurn.trans (State.keeps_complete ..)
    · exact State.keeps_updateEntry he rfl

theorem State.keeps_restarted (s : State) : s.KeepsTableLaws s.restarted :=
  State.keeps_of_queue (by simp [State.restarted]) (by simp [State.restarted]) fun _ he => nomatch he

/-- Every frame at the tracker keeps the laws (R144). -/
theorem State.keeps_take (s : State) (kind tagByte : Byte) (body : List Byte) (prior : LinkState) :
    s.KeepsTableLaws (s.take kind tagByte body prior) := by
  unfold State.take
  split
  · exact s.keeps_answer ..
  · exact s.keeps_tagged _ _ fun _ x => x.keeps_newBus .read _ _ body
  · exact s.keeps_tagged _ _ fun _ x => x.keeps_newBus .write _ _ body
  · exact s.keeps_tagged _ _ fun _ x => x.keeps_newBus .sequence _ _ body
  · refine s.keeps_tagged _ _ fun _ x => State.keeps_newWindowRequest fun w f hf => ?_
    split at hf
    · cases hf
    · rename_i hread
      simp only [Except.ok.injEq, Prod.mk.injEq, LinkRequest.windowSet.injEq] at hf
      obtain ⟨rfl, rfl⟩ := hf
      exact readWindowSet_inRange hread
  · refine s.keeps_tagged _ _ fun _ x => State.keeps_newWindowRequest fun w f hf => ?_
    split at hf <;> simp at hf
  · unfold takeWindowQuery
    split <;> exact s.keeps_answer ..
  · exact s.keeps_tagged _ _ fun _ x => x.keeps_newWatchSet ..
  · exact s.keeps_tagged _ _ fun _ x => x.keeps_newWatchDrop ..
  · unfold takeWatchQuery
    repeat' split
    all_goals exact s.keeps_answer ..
  · unfold takeCountersRead
    repeat' split
    all_goals exact s.keeps_answer ..
  · exact s.keeps_tagged _ _ fun _ x => x.keeps_newCountersClear ..
  · unfold takeHistoryRead
    repeat' split
    all_goals exact s.keeps_answer ..
  · exact s.keeps_tagged _ _ fun _ x => x.keeps_newTimingSet ..
  · unfold takeStatus
    split <;> exact s.keeps_answer ..
  · unfold takeIdentify
    split <;> exact s.keeps_answer ..
  · unfold takeNoticeAck
    split
    · exact s.keeps_answer ..
    · split
      · exact (State.keeps_answer ..).after (State.keeps_of_eq rfl rfl rfl)
      · exact s.keeps_answer ..
  · unfold takeAbort
    split
    · exact s.keeps_answer ..
    · split
      · exact s.keeps_answer ..
      · exact (State.keeps_abortEntry (State.entryOf_some ‹_›).2).trans (State.keeps_answer ..)
  · unfold takeRestart
    split
    · exact s.keeps_answer ..
    · exact s.keeps_restarted.trans (State.keeps_answer ..)

theorem State.keeps_arrive (s : State) (kind tagByte : Byte) (body : List Byte) :
    s.KeepsTableLaws (s.arrive kind tagByte body) :=
  (s.hear.keeps_take ..).after (State.keeps_of_eq rfl rfl rfl)

/-! ## The link -/

theorem State.keeps_handOver (s : State) (frame : List Byte) : s.KeepsTableLaws (s.handOver frame) :=
  ((State.keeps_arrive (s.holdBytes []) _ _ _).trans (State.keeps_transmit _)).after (State.keeps_of_eq rfl rfl rfl)

/-- A run of bytes hands over frames and counts bad ones (R162 to R165). -/
theorem State.keeps_scan (fuel : Nat) (input : List Byte) (s : State) : s.KeepsTableLaws (s.scan fuel input) := by
  induction fuel generalizing s input with
  | zero => exact State.keeps_of_eq rfl rfl rfl
  | succ fuel ih =>
    unfold State.scan
    split
    · exact State.keeps_of_eq rfl rfl rfl
    · exact State.keeps_of_eq rfl rfl rfl
    · split
      · exact (ih _ s.countOversize).after (State.keeps_of_eq rfl rfl rfl)
      · split
        · exact State.keeps_of_eq rfl rfl rfl
        · dsimp only
          split
          · exact (s.keeps_handOver _).trans (ih _ _)
          · exact (ih _ s.countBadCrc).after (State.keeps_of_eq rfl rfl rfl)

theorem State.keeps_byteArrival (s : State) (data : Byte) (stopHigh : Bool) :
    s.KeepsTableLaws (s.byteArrival data stopHigh) := by
  unfold State.byteArrival
  split
  · exact (State.keeps_of_eq rfl rfl rfl).after ((State.keeps_scan ..).after (State.keeps_of_eq rfl rfl rfl))
  · exact .refl s
  · exact .refl s

theorem State.keeps_gapExpiry (s : State) : s.KeepsTableLaws s.gapExpiry := by
  unfold State.gapExpiry
  split <;> exact State.keeps_of_eq rfl rfl rfl

theorem State.keeps_receiverStart (s : State) : s.KeepsTableLaws s.receiverStart := by
  unfold State.receiverStart
  split <;> exact State.keeps_of_eq rfl rfl rfl

theorem State.keeps_highAfterBreak (s : State) : s.KeepsTableLaws s.highAfterBreak := by
  unfold State.highAfterBreak
  split <;> exact State.keeps_of_eq rfl rfl rfl

theorem State.keeps_frameEnd (s : State) : s.KeepsTableLaws s.frameEnd := by
  unfold State.frameEnd
  dsimp only
  repeat' split
  all_goals exact State.keeps_of_eq rfl rfl rfl

/-! ## Resets (R40, R140) -/

theorem State.keeps_boot (s : State) (cause : ResetCause) (rate : BitVec 2) :
    s.KeepsTableLaws (s.boot cause rate) := by
  unfold State.boot
  dsimp only
  split
  · exact (State.keeps_lreqAsserted _).after (State.keeps_of_reset rfl rfl rfl)
  · exact State.keeps_of_reset rfl rfl rfl

/-! ## Every command, every step -/

/-- The outcome of a command that answers only states the laws are kept in. -/
def State.KeepsOn (s : State) (o : Host.Outcome State Fault Refusal) : Prop := ∀ t, o = .next t → s.KeepsTableLaws t

theorem State.keepsOn_next {s t : State} (h : s.KeepsTableLaws t) : s.KeepsOn (.next t) := by
  rintro _ ⟨⟩
  exact h

/-- A command keeps the laws when its effect does: the choices before and after it touch no table. -/
theorem State.keeps_event {f : State → State} (h : ∀ x : State, x.KeepsTableLaws (f x)) (s : State) :
    s.KeepsTableLaws (s.event f) := by
  unfold State.event
  split
  · exact .refl s
  · exact s.keeps_transmit.trans ((h _).trans (State.keeps_transmit _))

theorem State.keeps_entryEvent {f : State → State} (h : ∀ x : State, x.KeepsTableLaws (f x)) (s : State) :
    s.KeepsTableLaws (s.entryEvent f) := by
  unfold State.entryEvent
  split
  · exact .refl s
  · exact s.keeps_transmit.trans ((h _).trans (State.keeps_of_eq (by simp) (by simp) (by simp)))

theorem State.keepsOn_event {f : State → State} (h : ∀ x : State, x.KeepsTableLaws (f x)) (s : State) :
    s.KeepsOn (.next (s.event f)) := State.keepsOn_next (State.keeps_event h s)

theorem State.keepsOn_arrival (s : State) (kind tagByte : Byte) (body : List Byte) :
    s.KeepsOn (.next (s.arrival kind tagByte body)) := State.keepsOn_event (fun x => x.keeps_arrive ..) s

theorem State.keepsOn_exec (c : Instr) (s : State) : s.KeepsOn (exec c s) := by
  cases c with
  | powerOn rate =>
    simp only [exec, execPowerOn]
    split
    · exact State.keepsOn_next ((s.keeps_boot ..).trans (State.keeps_transmit _))
    · exact State.keepsOn_next (State.keeps_of_reset rfl rfl rfl)
  | rstnAsserted =>
    simp only [exec, execRstnAsserted]
    split
    · exact State.keepsOn_next (State.keeps_of_reset rfl rfl rfl)
    · exact State.keepsOn_next (.refl s)
  | rstnWithdrawn rate =>
    simp only [exec, execRstnWithdrawn]
    split
    · exact State.keepsOn_next s.keeps_transmit
    · exact State.keepsOn_next ((s.keeps_boot ..).trans (State.keeps_transmit _))
  | receiverStart => exact State.keepsOn_event State.keeps_receiverStart s
  | byteArrival data stopHigh => exact State.keepsOn_event (fun x => x.keeps_byteArrival ..) s
  | gapTimerExpiry => exact State.keepsOn_event State.keeps_gapExpiry s
  | frameEnd => exact State.keepsOn_event State.keeps_frameEnd s
  | rxdHighAfterBreak => exact State.keepsOn_event State.keeps_highAfterBreak s
  | grant => exact State.keepsOn_event State.keeps_grant s
  | accessEnd ready deferred lines =>
    exact State.keepsOn_next (State.keeps_entryEvent (fun x => x.keeps_accessEnd ..) s)
  | gapEnd => exact State.keepsOn_event State.keeps_gapEnd s
  | retryWaitEnd => exact State.keepsOn_event State.keeps_retryWaitEnd s
  | backoffEnd tag => exact State.keepsOn_event (fun x => x.keeps_backoffEnd _) s
  | deadline tag => exact State.keepsOn_event (fun x => x.keeps_deadlinePasses _) s
  | windowRequestTakesEffect w => exact State.keepsOn_event (fun x => x.keeps_takesEffect _) s
  | lreqnAsserted =>
    exact State.keepsOn_next ((State.keeps_event State.keeps_lreqAsserted _).after (State.keeps_of_eq rfl rfl rfl))
  | lendTaken => exact State.keepsOn_event State.keeps_lendTaken s
  | lreqnWithdrawn =>
    exact State.keepsOn_next ((State.keeps_event State.keeps_lreqWithdrawn _).after (State.keeps_of_eq rfl rfl rfl))
  | reclaimEnd => exact State.keepsOn_event State.keeps_reclaimEnd s
  | pollTick => exact State.keepsOn_event State.keeps_pollTick s
  | intervalEnd =>
    exact State.keepsOn_next
      (State.keeps_entryEvent (f := State.intervalEnd) (fun _ => State.keeps_of_eq rfl rfl rfl) s)
  | resendTimerExpiry => exact State.keepsOn_event (f := State.resendExpiry) (fun _ => State.keeps_of_eq rfl rfl rfl) s
  | _ => exact State.keepsOn_arrival s _ _ _

theorem State.keepsOn_step (s : State) : s.KeepsOn (step s) := by
  unfold step
  split
  · rename_i c rest _
    exact fun t ht => (State.keepsOn_exec c { s with pending := rest } t ht).after (State.keeps_of_eq rfl rfl rfl)
  · split
    · exact s.keepsOn_exec _
    · exact State.keepsOn_event (f := State.elapse) (fun _ => State.keeps_of_eq rfl rfl rfl) s

/-- Settles O55: every step keeps both laws, because every command does. -/
theorem stepKeepsWindowLaw : Obligations.StepKeepsWindowLaw :=
  ⟨fun s t hlaw hstep => (s.keepsOn_step t hstep).1 hlaw,
    fun s t hlaw hwatch hstep => (s.keepsOn_step t hstep).2 hlaw hwatch⟩

end Sys2Proof.Machine
end

section
/-! PROOFS. The laws hold right after reset. -/

namespace Sys2Proof.Machine

@[simp] theorem State.reset_statsOf (w : WinId) : State.reset.statsOf w = WindowStats.zero := by
  simp [State.statsOf, State.reset, State.initial]

@[simp] theorem State.reset_watchOf (id : WatchId) : State.reset.watchOf id = none := by
  simp [State.watchOf, State.reset, State.initial]

@[simp] theorem State.reset_tagOf (t : Tag) : State.reset.tagOf t = .empty := by
  simp [State.tagOf, State.reset, State.initial, Tracker.reset]

@[simp] theorem State.reset_queue : State.reset.queue = [] := rfl
@[simp] theorem State.reset_bus : State.reset.bus = Bus.reset := rfl

/-- The BOOT notice stands alone, unsent, as number 1 (R130, R140). -/
theorem State.reset_noticeLaw : State.reset.NoticeLaw := by
  refine ⟨by decide, by decide, by decide, by decide, by decide, ?_, ?_, ?_⟩ <;> intro h <;> cases h

theorem State.reset_queueLaw : State.reset.QueueLaw := by
  refine ⟨by decide, List.nodup_nil, fun t => ?_, List.nodup_nil, nofun, by decide⟩
  rw [State.reset_tagOf]
  rfl

theorem State.reset_ringLaw : State.reset.RingLaw := by
  intro w
  rw [State.reset_statsOf]
  exact ⟨by decide, rfl, fun _ => rfl⟩

theorem State.reset_pollLaw : State.reset.PollLaw := by
  refine ⟨List.nodup_nil, fun id => ?_⟩
  rw [State.reset_watchOf]
  rfl

theorem State.reset_serviceLaw : State.reset.ServiceLaw := by
  simp [State.ServiceLaw, Bus.reset]

/-- Settles O60: nothing is queued, listed or in use, the bus is IDLE, and every window is as the reset leaves it. -/
theorem resetHasLaws : Obligations.ResetHasLaws := by
  obtain ⟨hwindow, hwatch⟩ := State.tableLaws_of_reset (t := State.reset) rfl rfl rfl
  exact ⟨hwindow, State.reset_queueLaw, State.reset_noticeLaw, State.reset_ringLaw, State.reset_pollLaw, rfl, hwatch,
    State.reset_serviceLaw⟩

end Sys2Proof.Machine
end

section
/-! PROOFS. A window request that takes effect, fails a check or waits (R16 to R19), and the queries of the two tables
(R20, R101). -/

namespace Sys2Proof.Machine

/-! ## Taking effect (R16 to R19) -/

/-- Off the wire a completion is the entry gone and its tag DONE (R65). -/
theorem State.complete_offWire (s : State) (e : LinkEntry) (status : Status) :
    (s.complete e status).offWire =
      ({ s with queue := s.queue.filter (fun x : LinkEntry => x.tag ≠ e.tag) }.setTag e.tag
        (.done e.phase (e.reply status))).offWire :=
  State.store_offWire ..

/-- A window request that passes its checks writes its window, resets its statistics and completes OK (R18, R19). -/
theorem exec_takesEffect_passes {s : State} {w : WinId} {e : LinkEntry} (h : s.phase = .running)
    (hready : s.readyRequest w = some e) (hcheck : s.windowCheck w e.request = none) :
    ∃ t, exec (.windowRequestTakesEffect w) s = .next t ∧
      t.offWire =
        ((({ s with queue := s.queue.filter (fun x : LinkEntry => x.tag ≠ e.tag) }.setWindow w
          ((s.window w).after e.request)).setStats w .zero).setTag e.tag (.done e.phase (e.reply .ok))).offWire ∧
      t.hasStored e.tag e.phase (e.reply .ok) := by
  refine ⟨_, exec_windowRequestTakesEffect h w, ?_, ?_⟩
  all_goals simp only [State.takesEffect, State.transmit_readyRequest, hready, State.applyWindowRequest,
    State.transmit_windowCheck, hcheck, State.transmit_window]
  · rw [State.transmit_offWire, State.complete_offWire]
    apply State.offWire_ext <;> simp
  · exact State.complete_transmit_hasStored ..

/-- A window request that fails a check completes with its status, and changes nothing else (R17). -/
theorem exec_takesEffect_fails {s : State} {w : WinId} {e : LinkEntry} {status : Status} (h : s.phase = .running)
    (hready : s.readyRequest w = some e) (hcheck : s.windowCheck w e.request = some status) :
    ∃ t, exec (.windowRequestTakesEffect w) s = .next t ∧
      t.offWire =
        ({ s with queue := s.queue.filter (fun x : LinkEntry => x.tag ≠ e.tag) }.setTag e.tag
          (.done e.phase (e.reply status))).offWire ∧
      t.hasStored e.tag e.phase (e.reply status) := by
  refine ⟨_, exec_windowRequestTakesEffect h w, ?_, ?_⟩
  all_goals simp only [State.takesEffect, State.transmit_readyRequest, hready, State.applyWindowRequest,
    State.transmit_windowCheck, hcheck]
  · rw [State.transmit_offWire, State.complete_offWire]
    apply State.offWire_ext <;> simp
  · exact State.complete_transmit_hasStored ..

/-- Where no window request is ready, nothing takes effect (R16). -/
theorem exec_takesEffect_waits {s : State} {w : WinId} (h : s.phase = .running) (hready : s.readyRequest w = none) :
    ∃ t, exec (.windowRequestTakesEffect w) s = .next t ∧ t.offWire = s.offWire := by
  refine ⟨_, exec_windowRequestTakesEffect h w, ?_⟩
  simp only [State.takesEffect, State.transmit_readyRequest, hready, State.transmit_offWire]

/-- The reply of a WINDOW_SET, of one status byte (R171). -/
theorem LinkEntry.reply_of_windowSet {e : LinkEntry} {f : WindowFields} (h : e.request = .windowSet f)
    (status : Status) : e.reply status = { kind := 0xA0#8, tagByte := e.tagByte, body := [status.code] } := by
  simp [LinkEntry.reply, LinkEntry.replyBody, h, LinkRequest.kind, Kind.code, replyKind]

/-- The reply of a WINDOW_CLOSE, of one status byte (R171). -/
theorem LinkEntry.reply_of_windowClose {e : LinkEntry} (h : e.request = .windowClose) (status : Status) :
    e.reply status = { kind := 0xA1#8, tagByte := e.tagByte, body := [status.code] } := by
  simp [LinkEntry.reply, LinkEntry.replyBody, h, LinkRequest.kind, Kind.code, replyKind]

/-- A watch entry's unit stays inside the new range, which permits reads (R17 check 2). -/
def WindowFields.servesWatch (f : WindowFields) (c : WatchConfig) : Prop :=
  f.base ≤ c.address ∧ c.address + c.unit.bytes ≤ f.base + 2 ^ f.sizeExp ∧ f.rights.permitsRead = true

theorem WindowFields.servesWatch_iff {f : WindowFields} {c : WatchConfig} :
    (f.holdsUnit c && f.rights.permitsRead) = true ↔ f.servesWatch c := by
  simp only [WindowFields.holdsUnit, Bool.and_eq_true, decide_eq_true_eq, and_assoc]
  rfl

/-- The checks of a WINDOW_SET (R17): OVERLAP first, then WATCH_DEPENDS. -/
theorem State.windowCheck_windowSet_of_overlap {s : State} {w : WinId} {f : WindowFields}
    (h : ∃ v : WinId, v ≠ w ∧ (s.window v).isOpen = true ∧ f.overlaps (s.window v).fields = true) :
    s.windowCheck w (.windowSet f) = some .overlap := by
  obtain ⟨v, hne, hopen, hoverlap⟩ := h
  have hother : s.overlapsOther w f = true := by
    by_contra hno
    have := State.overlapsOther_eq_false.mp (by simpa using hno) v hne hopen
    rw [hoverlap] at this
    cases this
  simp only [State.windowCheck, hother, if_true]

theorem State.windowCheck_windowSet_of_apart {s : State} {w : WinId} {f : WindowFields}
    (h : ∀ v : WinId, v ≠ w → (s.window v).isOpen = true → f.overlaps (s.window v).fields = false) :
    ((∀ c ∈ s.watchersOf w, f.servesWatch c) → s.windowCheck w (.windowSet f) = none) ∧
      ((∃ c ∈ s.watchersOf w, ¬ f.servesWatch c) → s.windowCheck w (.windowSet f) = some .watchDepends) := by
  have hall : (s.watchersOf w).all (fun c => f.holdsUnit c && f.rights.permitsRead) = true ↔
      ∀ c ∈ s.watchersOf w, f.servesWatch c := by
    rw [List.all_eq_true]
    exact forall₂_congr fun c _ => WindowFields.servesWatch_iff
  simp only [State.windowCheck, State.overlapsOther_eq_false.mpr h, Bool.false_eq_true, if_false]
  exact ⟨fun hserves => if_pos (hall.mpr hserves), fun ⟨c, hc, hno⟩ => if_neg fun hserves => hno (hall.mp hserves c hc)⟩

theorem State.windowCheck_windowClose {s : State} {w : WinId} :
    s.windowCheck w .windowClose = if s.watchersOf w = [] then none else some .watchDepends := by
  simp [State.windowCheck, List.isEmpty_iff]

/-- Settles O21: the request is ready and its checks pass. -/
theorem windowRequestTakesEffect : Obligations.WindowRequestTakesEffect := by
  refine ⟨fun s w e f h holdest hrequest huse hapart hserves => ?_, fun s w e h holdest hrequest huse hwatchers => ?_⟩
  · have hready : s.readyRequest w = some e := State.readyRequest_eq_some.mpr ⟨holdest, by rw [hrequest]; rfl, huse⟩
    have hcheck := (State.windowCheck_windowSet_of_apart hapart).1 hserves
    have heffect := exec_takesEffect_passes h hready (by rw [hrequest]; exact hcheck)
    rw [LinkEntry.reply_of_windowSet hrequest, hrequest] at heffect
    exact heffect
  · have hready : s.readyRequest w = some e := State.readyRequest_eq_some.mpr ⟨holdest, by rw [hrequest]; rfl, huse⟩
    have hcheck : s.windowCheck w e.request = none := by
      rw [hrequest, State.windowCheck_windowClose, if_pos hwatchers]
    have heffect := exec_takesEffect_passes h hready hcheck
    rw [LinkEntry.reply_of_windowClose hrequest, hrequest] at heffect
    exact heffect

/-- Settles O22: the request is ready and a check fails, or it is not ready. -/
theorem windowRequestFailsOrWaits : Obligations.WindowRequestFailsOrWaits := by
  intro s w e h holdest
  refine ⟨fun f status hrequest huse hfails => ?_, fun hrequest huse hwatchers => ?_, fun hwaits => ?_⟩
  · have hready : s.readyRequest w = some e := State.readyRequest_eq_some.mpr ⟨holdest, by rw [hrequest]; rfl, huse⟩
    have hcheck : s.windowCheck w e.request = some status := by
      rw [hrequest]
      rcases hfails with ⟨hoverlap, rfl⟩ | ⟨hapart, hdepends, rfl⟩
      · exact State.windowCheck_windowSet_of_overlap hoverlap
      · exact (State.windowCheck_windowSet_of_apart hapart).2 hdepends
    have heffect := exec_takesEffect_fails h hready hcheck
    rwa [LinkEntry.reply_of_windowSet hrequest] at heffect
  · have hready : s.readyRequest w = some e := State.readyRequest_eq_some.mpr ⟨holdest, by rw [hrequest]; rfl, huse⟩
    have hcheck : s.windowCheck w e.request = some .watchDepends := by
      rw [hrequest, State.windowCheck_windowClose, if_neg hwatchers]
    have heffect := exec_takesEffect_fails h hready hcheck
    rwa [LinkEntry.reply_of_windowClose hrequest] at heffect
  · refine exec_takesEffect_waits h ?_
    rw [State.readyRequest, holdest]
    exact if_pos (by simpa using hwaits)

/-! ## Queries (R20, R101) -/

theorem fieldAt_be1 (n : Nat) : fieldAt (be1 n) 0 1 = n % 256 := by
  simp [fieldAt, be1, beNat]

/-- A body of one window number is read as that window (R170). -/
theorem readWindow_be1 (w : WinId) : readWindow true (be1 w.val) = .ok w := by
  have hw : winId? (fieldAt (be1 w.val) 0 1) = some w := by
    rw [fieldAt_be1, Nat.mod_eq_of_lt (by omega)]
    exact winId?_of_lt w.isLt
  rw [readWindow, hw]
  rfl

/-- A body of one watch id is read as that id (R170). -/
theorem readWatchId_be1 (id : WatchId) : readWatchId true (be1 id.val) = .ok id := by
  have hid : watchId? (fieldAt (be1 id.val) 0 1) = some id := by
    rw [fieldAt_be1, Nat.mod_eq_of_lt (by omega)]
    exact watchId?_of_lt id.isLt
  rw [readWatchId, hid]
  rfl

/-- What a WINDOW_QUERY answers is read from the windows and the queue (R20). -/
theorem State.windowBytes_congr {s t : State} (hwindows : t.windows = s.windows) (hqueue : t.queue = s.queue)
    (w : WinId) : t.windowBytes w = s.windowBytes w := by
  simp only [State.windowBytes, State.window_congr hwindows, State.queuedOn, State.blocked, hqueue]

theorem State.watchWindow_congr {s t : State} (hwindows : t.windows = s.windows) (hwatch : t.watch = s.watch)
    (id : WatchId) : t.watchWindow id = s.watchWindow id := by
  simp only [State.watchWindow, State.watchOf_congr hwatch, State.decode_congr hwindows]

/-- The contents of a WINDOW_QUERY reply, part by part (R20, R171). -/
theorem State.windowBytes_eq (s : State) (w : WinId) :
    s.windowBytes w =
      be1 w.val ++ be1 (if (s.window w).isOpen then 1 else 0) ++ (s.window w).fields.toBytes ++
        be1 (s.window w).health.state.code ++ be1 (s.window w).health.failureRun ++
        be1 (s.window w).health.successRun ++ be1 (s.queue.filter (fun e => decide (e.window = w))).length ++
        be1 (if s.queue.any (fun e => e.request.isBus && decide (e.window = w) &&
          decide (e.state = .deferred)) then 1 else 0) := by
  simp only [State.windowBytes, Health.toBytes, List.append_assoc]
  rfl

/-- An arrival that is answered at once, with no other effect than the DEAF exit (R152, R166). -/
theorem exec_answers {s : State} (h : s.phase = .running) {k : Kind} {tagByte : Byte} {body : List Byte}
    {status : Status} {contents : List Byte}
    (htake : s.transmit.hear.take k.code tagByte body s.transmit.notices.link =
      s.transmit.hear.answer k.code tagByte status contents) :
    ∃ t, exec (k.command tagByte body) s = .next t ∧ t.offWire = s.hear.offWire ∧
      s.answered t { kind := replyKind k.code, tagByte := tagByte, body := status.code :: contents } := by
  obtain ⟨hoff, hanswered⟩ := State.answer_given (s := s) (x := s.transmit.hear) (by simp) (by simp) k.code tagByte
    status contents
  refine ⟨_, exec_command h k tagByte body, ?_⟩
  rw [State.arrive, htake]
  exact ⟨hoff.trans s.transmit_hear_offWire, hanswered⟩

theorem exec_windowQuery {s : State} (h : s.phase = .running) {tagByte : Byte} (hspare : spareClear tagByte = true)
    (w : WinId) :
    ∃ t, exec (.windowQuery tagByte (be1 w.val)) s = .next t ∧ t.offWire = s.hear.offWire ∧
      s.answered t { kind := 0xA2#8, tagByte := tagByte, body := 0x00#8 :: s.windowBytes w } := by
  refine exec_answers h (k := .windowQuery) (status := .ok) ?_
  rw [State.take, Kind.ofByte?_code]
  simp only [takeWindowQuery, hspare, readWindow_be1]
  rw [State.windowBytes_congr (s := s) (by simp) (by simp)]

/-- What a WATCH_QUERY answers: the status, and after OK the entry with its window (R101). -/
def State.watchAnswer (s : State) (id : WatchId) : Status × List Byte :=
  match s.watchOf id with
  | none => (.slotEmpty, [])
  | some x => (.ok, x.toBytes id.val (((s.watchWindow id).map Fin.val).getD 0))

theorem State.watchAnswer_of_none {s : State} {id : WatchId} (h : s.watchOf id = none) :
    s.watchAnswer id = (.slotEmpty, []) := by
  simp only [State.watchAnswer, h]

theorem State.watchAnswer_of_some {s : State} {id : WatchId} {x : WatchEntry} {w : WinId}
    (h : s.watchOf id = some x) (hdecode : s.decode x.config.address = some w) :
    s.watchAnswer id = (.ok, x.toBytes id.val w.val) := by
  simp only [State.watchAnswer, State.watchWindow, h, hdecode]
  rfl

theorem exec_watchQuery {s : State} (h : s.phase = .running) {tagByte : Byte} (hspare : spareClear tagByte = true)
    (id : WatchId) :
    ∃ t, exec (.watchQuery tagByte (be1 id.val)) s = .next t ∧ t.offWire = s.hear.offWire ∧
      s.answered t
        { kind := 0xB2#8, tagByte := tagByte, body := (s.watchAnswer id).1.code :: (s.watchAnswer id).2 } := by
  refine exec_answers h (k := .watchQuery) ?_
  rw [State.take, Kind.ofByte?_code]
  have hwatch : s.transmit.hear.watchOf id = s.watchOf id := State.watchOf_congr (by simp) id
  simp only [takeWatchQuery, hspare, readWatchId_be1, hwatch, State.watchAnswer,
    State.watchWindow_congr (s := s) (t := s.transmit.hear) (by simp) (by simp)]
  cases s.watchOf id <;> rfl

/-- Settles O23: both queries are answered from the tables as they stand. -/
theorem tableQueriesAnswer : Obligations.TableQueriesAnswer := by
  refine ⟨fun s tagByte w h hspare => ?_, fun s tagByte id h hspare => ?_⟩
  · obtain ⟨t, hexec, hoff, hanswered⟩ := exec_windowQuery h hspare w
    rw [State.windowBytes_eq] at hanswered
    exact ⟨t, hexec, hoff, hanswered⟩
  · obtain ⟨t, hexec, hoff, hanswered⟩ := exec_watchQuery h hspare id
    refine ⟨t, hexec, hoff, fun hnone => ?_, fun x w hsome hdecode => ?_⟩
    · rwa [State.watchAnswer_of_none hnone] at hanswered
    · rwa [State.watchAnswer_of_some hsome hdecode] at hanswered

end Sys2Proof.Machine
end

section
/-! PROOFS. WINDOW_SET and WINDOW_CLOSE at acceptance (R14, R15, R44). -/

namespace Sys2Proof.Machine

/-! ## A new window request, once its body has been read -/

/-- The entry of a window request at its acceptance, with its deadline (R14, R44). -/
theorem exec_windowRequest_accepted {s : State} (h : s.phase = .running) {k : Kind} {tagByte : Byte} {tag : Tag}
    {body : List Byte} (hnew : s.isNew tagByte tag) {read : Except Status (WinId × LinkRequest)} {w : WinId}
    {r : LinkRequest}
    (htake : s.transmit.hear.take k.code tagByte body s.transmit.notices.link =
      s.transmit.hear.tagged k tagByte fun t x => x.newWindowRequest k t tagByte read)
    (hread : read = .ok (w, r)) (hroom : s.queue.length < 12) :
    ∃ t, exec (k.command tagByte body) s = .next t ∧
      t.offWire =
        ({ s.hear with queue := s.queue ++ [s.newEntry tag tagByte w r] }.setTag tag
          (.pending (phaseOf tagByte))).offWire := by
  obtain ⟨x, hexec, hx⟩ := exec_new h hnew htake
  obtain ⟨-, hqueue, -⟩ := State.judging_fields hx
  have hfull : x.queueFull = false := by simp [State.queueFull, hqueue, Config.queueCapacity, hroom]
  refine ⟨_, hexec, ?_⟩
  simp only [State.newWindowRequest, hread, hfull, Bool.false_eq_true, if_false]
  exact State.accept_given hx tagByte w r

/-- Before a full queue it is refused QUEUE_FULL (R44, R146). -/
theorem exec_windowRequest_queueFull {s : State} (h : s.phase = .running) {k : Kind} (hbus : k.isBus = false)
    {tagByte : Byte} {tag : Tag} {body : List Byte} (hnew : s.isNew tagByte tag)
    {read : Except Status (WinId × LinkRequest)} {w : WinId} {r : LinkRequest}
    (htake : s.transmit.hear.take k.code tagByte body s.transmit.notices.link =
      s.transmit.hear.tagged k tagByte fun t x => x.newWindowRequest k t tagByte read)
    (hread : read = .ok (w, r)) (hfull : 12 ≤ s.queue.length) :
    ∃ t, exec (k.command tagByte body) s = .next t ∧
      s.refusedWith t tag tagByte (plainReply k tagByte .queueFull) := by
  obtain ⟨x, hexec, hx⟩ := exec_new h hnew htake
  obtain ⟨-, hqueue, -⟩ := State.judging_fields hx
  have hfull : x.queueFull = true := by simp [State.queueFull, hqueue, Config.queueCapacity, hfull]
  have hrefuse : x.newWindowRequest k tag tagByte read = x.refuse k tag tagByte .queueFull := by
    simp only [State.newWindowRequest, hread, hfull, if_true]
  have hgiven := State.refuse_given hx k tagByte .queueFull
  simp only [refusalBody, hbus, Bool.false_eq_true, if_false] at hgiven
  exact ⟨_, hexec, by rw [hrefuse]; exact hgiven⟩

/-- A body that fails its reader's checks is refused with the reader's status (R146, R147). -/
theorem exec_windowRequest_refused {s : State} (h : s.phase = .running) {k : Kind} (hbus : k.isBus = false)
    {tagByte : Byte} {tag : Tag} {body : List Byte} (hnew : s.isNew tagByte tag)
    {read : Except Status (WinId × LinkRequest)} {status : Status}
    (htake : s.transmit.hear.take k.code tagByte body s.transmit.notices.link =
      s.transmit.hear.tagged k tagByte fun t x => x.newWindowRequest k t tagByte read)
    (hread : read = .error status) :
    ∃ t, exec (k.command tagByte body) s = .next t ∧ s.refusedWith t tag tagByte (plainReply k tagByte status) :=
  exec_new_refused h hbus hnew htake fun x => by rw [hread]; rfl

/-! ## WINDOW_CLOSE (R15) -/

/-- What a WINDOW_CLOSE frame asks for. -/
def windowCloseRead (tagByte : Byte) (body : List Byte) : Except Status (WinId × LinkRequest) :=
  match readWindow (plainTagByte tagByte) body with
  | .error status => .error status
  | .ok w => .ok (w, .windowClose)

theorem State.take_windowClose (s : State) (tagByte : Byte) (body : List Byte) (prior : LinkState) :
    s.take Kind.windowClose.code tagByte body prior =
      s.tagged .windowClose tagByte fun t x =>
        x.newWindowRequest .windowClose t tagByte (windowCloseRead tagByte body) := by
  rw [State.take, Kind.ofByte?_code]
  rfl

theorem fieldAt_singleton (n : Byte) : fieldAt [n] 0 1 = n.toNat := by
  simp [fieldAt, beNat]

theorem plainTagByte_iff {tagByte : Byte} :
    plainTagByte tagByte = true ↔ spareClear tagByte = true ∧ forceOf tagByte = false := by
  simp [plainTagByte]

theorem windowCloseRead_ok {tagByte n : Byte} {w : WinId} (hplain : plainTagByte tagByte = true)
    (hn : n.toNat = w.val) : windowCloseRead tagByte [n] = .ok (w, .windowClose) := by
  have hw : winId? (fieldAt [n] 0 1) = some w := by
    rw [fieldAt_singleton, hn]
    exact winId?_of_lt w.isLt
  rw [windowCloseRead, readWindow, hw, hplain]
  rfl

theorem windowCloseRead_badField {tagByte n : Byte} (h : 7 < n.toNat ∨ forceOf tagByte = true) :
    windowCloseRead tagByte [n] = .error .badField := by
  unfold windowCloseRead readWindow
  rw [fieldAt_singleton]
  by_cases hn : n.toNat < 8
  · have hplain : plainTagByte tagByte = false := by
      simp [plainTagByte, h.resolve_left (by omega)]
    rw [winId?_of_lt hn, hplain]
    rfl
  · rw [winId?_of_le (by omega)]
    rfl

/-- Settles O20: a WINDOW_CLOSE is read, and then queued or refused. -/
theorem windowCloseAccepted : Obligations.WindowCloseAccepted := by
  intro s tagByte tag n h hnew hspare
  have htake := State.take_windowClose s.transmit.hear tagByte [n] s.transmit.notices.link
  refine ⟨fun hbad => ?_, fun w hn hforce hroom => ?_, fun w hn hforce hfull => ?_⟩
  · exact exec_windowRequest_refused h rfl hnew htake (windowCloseRead_badField hbad)
  · have hread := windowCloseRead_ok (plainTagByte_iff.mpr ⟨hspare, hforce⟩) hn
    have haccepted := exec_windowRequest_accepted h hnew htake hread hroom
    rw [State.newEntry, hforce] at haccepted
    exact haccepted
  · have hread := windowCloseRead_ok (plainTagByte_iff.mpr ⟨hspare, hforce⟩) hn
    exact exec_windowRequest_queueFull h rfl hnew htake hread hfull

/-! ## The body of a WINDOW_SET (R14, R170) -/

theorem Lane.ofCode?_code {l : Lane} (h : l ≠ .unset) : Lane.ofCode? l.code = some l := by
  cases l <;> first | rfl | exact absurd rfl h

theorem Rights.ofCode?_code {r : Rights} (h : r ≠ .unset) : Rights.ofCode? r.code = some r := by
  cases r <;> first | rfl | exact absurd rfl h

theorem ReadyMode.ofCode?_code {m : ReadyMode} (h : m ≠ .unset) : ReadyMode.ofCode? m.code = some m := by
  cases m <;> first | rfl | exact absurd rfl h

theorem Lane.ne_unset_of_ofCode? {n : Nat} {l : Lane} (h : Lane.ofCode? n = some l) : l ≠ .unset := by
  rintro rfl
  unfold Lane.ofCode? at h
  split at h <;> cases h

theorem Rights.ne_unset_of_ofCode? {n : Nat} {r : Rights} (h : Rights.ofCode? n = some r) : r ≠ .unset := by
  rintro rfl
  unfold Rights.ofCode? at h
  split at h <;> cases h

theorem ReadyMode.ne_unset_of_ofCode? {n : Nat} {m : ReadyMode} (h : ReadyMode.ofCode? n = some m) : m ≠ .unset := by
  rintro rfl
  unfold ReadyMode.ofCode? at h
  split at h <;> cases h

/-- The fields that the bytes of a WINDOW_SET body spell (R170). -/
def windowFieldsAt (body : List Byte) (lane : Lane) (rights : Rights) (readyMode : ReadyMode) : WindowFields :=
  { base := fieldAt body 1 3, sizeExp := fieldAt body 4 1, select := fieldAt body 5 1, lane := lane,
    rights := rights, setup := fieldAt body 8 1, strobe := fieldAt body 9 1, hold := fieldAt body 10 1,
    readyMode := readyMode, readyLimit := fieldAt body 11 2, releaseGap := fieldAt body 13 1,
    retryLimit := fieldAt body 14 1, retryBackoff := fieldAt body 15 2, declareCount := fieldAt body 17 1,
    clearCount := fieldAt body 18 1, severeThreshold := fieldAt body 19 2,
    notifyHealth := fieldAt body 21 1 % 2 = 1, notifySevere := fieldAt body 21 1 / 2 % 2 = 1 }

/-- The reader of WINDOW_SET once its four coded fields are known. -/
theorem readWindowSet_of_codes {tagOk : Bool} {body : List Byte} {w : WinId} {lane : Lane} {rights : Rights}
    {readyMode : ReadyMode} (hlength : body.length = 23) (hw : winId? (fieldAt body 0 1) = some w)
    (hlane : Lane.ofCode? (fieldAt body 6 1) = some lane)
    (hrights : Rights.ofCode? (fieldAt body 7 1) = some rights)
    (hmode : ReadyMode.ofCode? (fieldAt body 22 1) = some readyMode) :
    readWindowSet tagOk body =
      checked (tagOk && (windowFieldsAt body lane rights readyMode).inRange && decide (fieldAt body 21 1 < 4))
        (w, windowFieldsAt body lane rights readyMode) := by
  rw [readWindowSet, ofLength, if_pos hlength, hw, hlane, hrights, hmode]
  rfl

theorem WindowFields.toBytes_length (f : WindowFields) : f.toBytes.length = 22 := by
  simp [WindowFields.toBytes, be1, be2, be3]

theorem beNat_be1 (n : Nat) : beNat (be1 n) = n % 256 := by
  simp [beNat, be1]

theorem beNat_be2 (n : Nat) : beNat (be2 n) = n % 65536 := by
  simp only [beNat, be2, List.foldl_cons, List.foldl_nil, BitVec.toNat_ofNat]
  omega

theorem beNat_be3 (n : Nat) : beNat (be3 n) = n % 0x1000000 := by
  simp only [beNat, be3, List.foldl_cons, List.foldl_nil, BitVec.toNat_ofNat]
  omega

/-- The bytes of a WINDOW_SET body in their order (R170). -/
theorem fieldAt_windowSet (w : Nat) (f : WindowFields) :
    fieldAt (be1 w ++ f.toBytes) 0 1 = w % 256 ∧
    fieldAt (be1 w ++ f.toBytes) 1 3 = f.base % 0x1000000 ∧
    fieldAt (be1 w ++ f.toBytes) 4 1 = f.sizeExp % 256 ∧
    fieldAt (be1 w ++ f.toBytes) 5 1 = f.select % 256 ∧
    fieldAt (be1 w ++ f.toBytes) 6 1 = f.lane.code % 256 ∧
    fieldAt (be1 w ++ f.toBytes) 7 1 = f.rights.code % 256 ∧
    fieldAt (be1 w ++ f.toBytes) 8 1 = f.setup % 256 ∧
    fieldAt (be1 w ++ f.toBytes) 9 1 = f.strobe % 256 ∧
    fieldAt (be1 w ++ f.toBytes) 10 1 = f.hold % 256 ∧
    fieldAt (be1 w ++ f.toBytes) 11 2 = f.readyLimit % 65536 ∧
    fieldAt (be1 w ++ f.toBytes) 13 1 = f.releaseGap % 256 ∧
    fieldAt (be1 w ++ f.toBytes) 14 1 = f.retryLimit % 256 ∧
    fieldAt (be1 w ++ f.toBytes) 15 2 = f.retryBackoff % 65536 ∧
    fieldAt (be1 w ++ f.toBytes) 17 1 = f.declareCount % 256 ∧
    fieldAt (be1 w ++ f.toBytes) 18 1 = f.clearCount % 256 ∧
    fieldAt (be1 w ++ f.toBytes) 19 2 = f.severeThreshold % 65536 ∧
    fieldAt (be1 w ++ f.toBytes) 21 1 = (flagBit f.notifyHealth 1 + flagBit f.notifySevere 2) % 256 ∧
    fieldAt (be1 w ++ f.toBytes) 22 1 = f.readyMode.code % 256 := by 
  simp only [WindowFields.toBytes, be1, be2, be3, fieldAt, List.cons_append, List.nil_append, List.drop_zero,
    List.drop_succ_cons, List.take_succ_cons, List.take_zero]
  exact ⟨beNat_be1 _, beNat_be3 _, beNat_be1 _, beNat_be1 _, beNat_be1 _, beNat_be1 _, beNat_be1 _, beNat_be1 _,
    beNat_be1 _, beNat_be2 _, beNat_be1 _, beNat_be1 _, beNat_be2 _, beNat_be1 _, beNat_be1 _, beNat_be2 _,
    beNat_be1 _, beNat_be1 _⟩

theorem Lane.code_mod (l : Lane) : l.code % 256 = l.code := by cases l <;> rfl
theorem Rights.code_mod (r : Rights) : r.code % 256 = r.code := by cases r <;> rfl
theorem ReadyMode.code_mod (m : ReadyMode) : m.code % 256 = m.code := by cases m <;> rfl

/-- The flags byte of a WINDOW_SET body is read back bit by bit (R170). -/
theorem flagBits_read (a b : Bool) :
    (flagBit a 1 + flagBit b 2) % 256 < 4 ∧ decide ((flagBit a 1 + flagBit b 2) % 256 % 2 = 1) = a ∧
      decide ((flagBit a 1 + flagBit b 2) % 256 / 2 % 2 = 1) = b := by
  cases a <;> cases b <;> decide

/-- The bytes of fields in range spell those fields (R14, R170). -/
theorem windowFieldsAt_toBytes {w : Nat} {f : WindowFields} (h : f.inRange = true) :
    windowFieldsAt (be1 w ++ f.toBytes) f.lane f.rights f.readyMode = f := by
  obtain ⟨-, hbase, hsize, hselect, -, -, hsetup, hstrobe, hhold, hlimit, hgap, hretry, hbackoff, hdeclare, hclear,
    hsevere, hflags, -⟩ := fieldAt_windowSet w f
  obtain ⟨-, hhealth, hnotify⟩ := flagBits_read f.notifyHealth f.notifySevere
  obtain ⟨hbaseLt, -, hsizeLe, -, hselectLe, -, -, hsetupLe, -, hstrobeLe, hholdLe, -, -, hlimitLe, hgapLe, hretryLe, -,
    hbackoffLe, -, hdeclareLe, -, hclearLe, -, hsevereLe⟩ := WindowFields.inRange_iff.mp h
  rw [windowFieldsAt, hbase, hsize, hselect, hsetup, hstrobe, hhold, hlimit, hgap, hretry, hbackoff, hdeclare, hclear,
    hsevere, hflags, hhealth, hnotify]
  simp (disch := omega) only [Nat.mod_eq_of_lt]

/-- What the layout of R170 spells for fields in range is read as those fields (R14). -/
theorem readWindowSet_toBytes (w : WinId) {f : WindowFields} (h : f.inRange = true) :
    readWindowSet true (be1 w.val ++ f.toBytes) = .ok (w, f) := by
  obtain ⟨hw, -, -, -, hlane, hrights, -, -, -, -, -, -, -, -, -, -, hflags, hmode⟩ := fieldAt_windowSet w.val f
  obtain ⟨-, -, -, -, -, hlaneSet, hrightsSet, -, -, -, -, hmodeSet, -⟩ := WindowFields.inRange_iff.mp h
  rw [Nat.mod_eq_of_lt (by omega)] at hw
  rw [readWindowSet_of_codes (w := w) (lane := f.lane) (rights := f.rights) (readyMode := f.readyMode)
    (by rw [List.length_append, f.toBytes_length]; rfl) (by rw [hw]; exact winId?_of_lt w.isLt)
    (by rw [hlane, Lane.code_mod]; exact Lane.ofCode?_code hlaneSet)
    (by rw [hrights, Rights.code_mod]; exact Rights.ofCode?_code hrightsSet)
    (by rw [hmode, ReadyMode.code_mod]; exact ReadyMode.ofCode?_code hmodeSet), windowFieldsAt_toBytes h, h, hflags]
  simp [checked, (flagBits_read f.notifyHealth f.notifySevere).1]

/-- The four coded fields of a WINDOW_SET body are listed codes, and its values pass the field check (R14, R170). -/
def windowSetChecked (tagByte : Byte) (body : List Byte) : Prop :=
  ∃ w lane rights readyMode, winId? (fieldAt body 0 1) = some w ∧ Lane.ofCode? (fieldAt body 6 1) = some lane ∧
    Rights.ofCode? (fieldAt body 7 1) = some rights ∧ ReadyMode.ofCode? (fieldAt body 22 1) = some readyMode ∧
    (plainTagByte tagByte && (windowFieldsAt body lane rights readyMode).inRange &&
      decide (fieldAt body 21 1 < 4)) = true

theorem beNat_lt (bytes : List Byte) : beNat bytes < 256 ^ bytes.length := by
  have hfold : ∀ (l : List Byte) (n : Nat), l.foldl (fun n b => n * 256 + b.toNat) n < (n + 1) * 256 ^ l.length := by
    intro l
    induction l with
    | nil => intro n; simp
    | cons b l ih =>
      intro n
      have hb := b.isLt
      calc (b :: l).foldl (fun n b => n * 256 + b.toNat) n
          < (n * 256 + b.toNat + 1) * 256 ^ l.length := ih _
        _ ≤ ((n + 1) * 256) * 256 ^ l.length := Nat.mul_le_mul_right _ (by omega)
        _ = (n + 1) * 256 ^ (b :: l).length := by rw [List.length_cons, pow_succ]; ring
  simpa [beNat] using hfold bytes 0

theorem fieldAt_lt (body : List Byte) (offset size : Nat) : fieldAt body offset size < 256 ^ size :=
  lt_of_lt_of_le (beNat_lt _) (Nat.pow_le_pow_right (by decide) (List.length_take_le _ _))

/-- Every field in its range is what the reader checks (R2 to R6, R14, R170). -/
theorem windowSetChecked_iff {tagByte : Byte} {body : List Byte} :
    windowSetChecked tagByte body ↔ windowSetInRange tagByte body := by
  have hsevere : fieldAt body 19 2 ≤ 65535 := Nat.le_of_lt_succ (fieldAt_lt body 19 2)
  constructor
  · rintro ⟨w, lane, rights, readyMode, hw, hlane, hrights, hmode, hok⟩
    have hw : fieldAt body 0 1 < 8 := by
      by_contra hno
      rw [winId?_of_le (by omega)] at hw
      cases hw
    have hlane := Lane.ofCode?_isSome.mp ⟨lane, hlane⟩
    have hrights := Rights.ofCode?_isSome.mp ⟨rights, hrights⟩
    have hmode := ReadyMode.ofCode?_isSome.mp ⟨readyMode, hmode⟩
    rw [Bool.and_eq_true, Bool.and_eq_true, plainTagByte_iff, WindowFields.inRange_iff, decide_eq_true_eq] at hok
    obtain ⟨⟨⟨hspare, hforce⟩, hrange⟩, hflags⟩ := hok
    simp only [windowFieldsAt] at hrange
    refine ⟨hspare, hforce, ?_⟩
    omega
  · rintro ⟨hspare, hforce, hw, hrest⟩
    obtain ⟨lane, hlane⟩ := (Lane.ofCode?_isSome (n := fieldAt body 6 1)).mpr (by omega)
    obtain ⟨rights, hrights⟩ := (Rights.ofCode?_isSome (n := fieldAt body 7 1)).mpr (by omega)
    obtain ⟨readyMode, hmode⟩ := (ReadyMode.ofCode?_isSome (n := fieldAt body 22 1)).mpr (by omega)
    refine ⟨_, lane, rights, readyMode, winId?_of_lt (by omega), hlane, hrights, hmode, ?_⟩
    rw [Bool.and_eq_true, Bool.and_eq_true, plainTagByte_iff, WindowFields.inRange_iff, decide_eq_true_eq]
    simp only [windowFieldsAt, hspare, hforce, Lane.ne_unset_of_ofCode? hlane, Rights.ne_unset_of_ofCode? hrights,
      ReadyMode.ne_unset_of_ofCode? hmode, ne_eq, not_false_eq_true, true_and, and_true]
    omega

/-- A body of 23 bytes whose fields are in range is read (R14). -/
theorem readWindowSet_of_inRange {tagByte : Byte} {body : List Byte} (hlength : body.length = 23)
    (h : windowSetInRange tagByte body) : ∃ p, readWindowSet (plainTagByte tagByte) body = .ok p := by
  obtain ⟨w, lane, rights, readyMode, hw, hlane, hrights, hmode, hok⟩ := windowSetChecked_iff.mpr h
  rw [readWindowSet_of_codes hlength hw hlane hrights hmode, hok]
  exact ⟨_, rfl⟩

/-- A body of 23 bytes with a field out of its range is BAD_FIELD (R14, R170). -/
theorem readWindowSet_of_not_inRange {tagByte : Byte} {body : List Byte} (hlength : body.length = 23)
    (h : ¬ windowSetInRange tagByte body) : readWindowSet (plainTagByte tagByte) body = .error .badField := by
  cases hw : winId? (fieldAt body 0 1) with
  | none => rw [readWindowSet, ofLength, if_pos hlength, hw]
  | some w =>
    cases hlane : Lane.ofCode? (fieldAt body 6 1) with
    | none => rw [readWindowSet, ofLength, if_pos hlength, hw, hlane]
    | some lane =>
      cases hrights : Rights.ofCode? (fieldAt body 7 1) with
      | none => rw [readWindowSet, ofLength, if_pos hlength, hw, hlane, hrights]
      | some rights =>
        cases hmode : ReadyMode.ofCode? (fieldAt body 22 1) with
        | none => rw [readWindowSet, ofLength, if_pos hlength, hw, hlane, hrights, hmode]
        | some readyMode =>
          rw [readWindowSet_of_codes hlength hw hlane hrights hmode]
          refine if_neg fun hok => h (windowSetChecked_iff.mp ?_)
          exact ⟨w, lane, rights, readyMode, hw, hlane, hrights, hmode, hok⟩

/-! ## WINDOW_SET (R14) -/

/-- What a WINDOW_SET frame asks for. -/
def windowSetRead (tagByte : Byte) (body : List Byte) : Except Status (WinId × LinkRequest) :=
  match readWindowSet (plainTagByte tagByte) body with
  | .error status => .error status
  | .ok (w, fields) => .ok (w, .windowSet fields)

theorem State.take_windowSet (s : State) (tagByte : Byte) (body : List Byte) (prior : LinkState) :
    s.take Kind.windowSet.code tagByte body prior =
      s.tagged .windowSet tagByte fun t x => x.newWindowRequest .windowSet t tagByte (windowSetRead tagByte body) := by
  rw [State.take, Kind.ofByte?_code]
  rfl

theorem windowSetRead_of_error {tagByte : Byte} {body : List Byte} {status : Status}
    (h : readWindowSet (plainTagByte tagByte) body = .error status) : windowSetRead tagByte body = .error status := by
  rw [windowSetRead, h]

theorem windowSetRead_of_ok {tagByte : Byte} {body : List Byte} {w : WinId} {f : WindowFields}
    (h : readWindowSet (plainTagByte tagByte) body = .ok (w, f)) :
    windowSetRead tagByte body = .ok (w, .windowSet f) := by
  rw [windowSetRead, h]

/-- Settles O19: the layout of R170 is read back; any other body is refused by its first failing check. -/
theorem windowSetAccepted : Obligations.WindowSetAccepted := by
  refine ⟨fun s tagByte tag w f h hnew hspare hforce hrange hroom => ?_, fun s tagByte tag body h hnew => ?_⟩
  · have hread := readWindowSet_toBytes w hrange
    rw [← plainTagByte_iff.mpr ⟨hspare, hforce⟩] at hread
    have haccepted := exec_windowRequest_accepted h hnew (State.take_windowSet ..) (windowSetRead_of_ok hread) hroom
    rw [State.newEntry, hforce] at haccepted
    exact haccepted
  · have htake := State.take_windowSet s.transmit.hear tagByte body s.transmit.notices.link
    refine ⟨fun hlength => ?_, fun hlength hout => ?_, fun hlength hin hfull => ?_⟩
    · exact exec_windowRequest_refused h rfl hnew htake (windowSetRead_of_error (if_neg hlength))
    · exact exec_windowRequest_refused h rfl hnew htake
        (windowSetRead_of_error (readWindowSet_of_not_inRange hlength hout))
    · obtain ⟨⟨w, f⟩, hread⟩ := readWindowSet_of_inRange hlength hin
      exact exec_windowRequest_queueFull h rfl hnew htake (windowSetRead_of_ok hread) hfull

end Sys2Proof.Machine
end

section
/-! PROOFS. Bus data reads back: the layouts of READ, WRITE and SEQUENCE (R68 to R70), and a unit on the lanes of its
window (R11, R12, R67). -/

namespace Sys2Proof.Machine

/-! ## Request bodies (R68 to R70) -/

@[simp] theorem AddrMode.ofCode?_code (mode : AddrMode) :
    AddrMode.ofCode? (if mode = .fixed then 1 else 0) = some mode := by
  cases mode <;> rfl

theorem AddrMode.code_mod (mode : AddrMode) :
    (if mode = .fixed then 1 else 0) % 256 = if mode = .fixed then 1 else 0 := by
  cases mode <;> rfl

theorem UnitSize.bytes_mod (u : UnitSize) : u.bytes % 256 = u.bytes := by cases u <;> rfl

/-- A request of at most 128 bytes has at most 128 units (R68). -/
theorem UnitSize.count_le (u : UnitSize) {count : Nat} (h : count * u.bytes ≤ 128) : count ≤ 128 :=
  le_trans (Nat.le_mul_of_pos_right count u.bytes_pos) h

/-- The layout of a READ is read as its operands (R68). -/
theorem readRead_layout {address count : Nat} (unit : UnitSize) (mode : AddrMode) (haddress : address < 0x400000)
    (hpos : 1 ≤ count) (hsize : count * unit.bytes ≤ 128) :
    readRead true (be3 address ++ be1 unit.bytes ++ be1 count ++ be1 (if mode = .fixed then 1 else 0)) =
      .ok (.read address unit count mode) := by
  have hcount := unit.count_le hsize
  generalize hbody : be3 address ++ be1 unit.bytes ++ be1 count ++ be1 (if mode = .fixed then 1 else 0) = body
  have hfield : fieldAt body 0 3 = address ∧ fieldAt body 3 1 = unit.bytes ∧ fieldAt body 4 1 = count ∧
      fieldAt body 5 1 = if mode = .fixed then 1 else 0 := by
    subst hbody
    refine ⟨(beNat_be3 address).trans ?_, (beNat_be1 unit.bytes).trans unit.bytes_mod, (beNat_be1 count).trans ?_,
      (beNat_be1 _).trans mode.code_mod⟩
    · omega
    · omega
  obtain ⟨h0, h3, h4, h5⟩ := hfield
  have hlength : body.length = 6 := by rw [← hbody]; rfl
  rw [readRead, ofLength, if_pos hlength, h3, h5, UnitSize.ofCode?_bytes, AddrMode.ofCode?_code, h0, h4]
  exact if_pos (by simp [Config.addressSpace, haddress, hpos, hcount, hsize])

/-- The layout of a WRITE is read as its operands and its unit values (R67, R69). -/
theorem readWrite_layout {address : Nat} (unit : UnitSize) (mode : AddrMode) {data : List Value}
    (haddress : address < 0x400000) (hpos : 1 ≤ data.length) (hsize : data.length * unit.bytes ≤ 128)
    (hdata : ∀ v ∈ data, v.toNat < 2 ^ (8 * unit.bytes)) :
    readWrite true
        (be3 address ++ be1 unit.bytes ++ be1 (if mode = .fixed then 1 else 0) ++ be1 data.length ++
          (data.map unit.toBytes).flatten) =
      .ok (.write address unit mode data) := by
  have hcount := unit.count_le hsize
  have hvalues := readValues_toBytes unit data [] hdata
  rw [List.append_nil] at hvalues
  generalize hbytes : (data.map unit.toBytes).flatten = bytes at hvalues
  have hbytesLength : bytes.length = data.length * unit.bytes := by
    rw [← hbytes]
    exact unit.toBytes_flatten_length data
  generalize hbody : be3 address ++ be1 unit.bytes ++ be1 (if mode = .fixed then 1 else 0) ++ be1 data.length ++
    bytes = body
  have hfield : fieldAt body 0 3 = address ∧ fieldAt body 3 1 = unit.bytes ∧
      fieldAt body 4 1 = (if mode = .fixed then 1 else 0) ∧ fieldAt body 5 1 = data.length := by
    subst hbody
    refine ⟨(beNat_be3 address).trans ?_, (beNat_be1 unit.bytes).trans unit.bytes_mod,
      (beNat_be1 _).trans mode.code_mod, (beNat_be1 data.length).trans ?_⟩
    · omega
    · omega
  obtain ⟨h0, h3, h4, h5⟩ := hfield
  have hlength : body.length = 6 + data.length * unit.bytes := by
    rw [← hbody, List.length_append, hbytesLength]
    rfl
  have hdrop : body.drop 6 = bytes := by rw [← hbody]; rfl
  rw [readWrite, if_neg (by omega), h3, UnitSize.ofCode?_bytes]
  simp only [h5, h0, h4, AddrMode.ofCode?_code, hdrop, hvalues]
  rw [ofLength, if_pos hlength]
  exact if_pos (by simp [Config.addressSpace, haddress, hpos, hcount, hsize])

/-- The layout of a SEQUENCE is read as its steps (R70). -/
theorem readSequence_layout {steps : List SeqStep} (hpos : 1 ≤ steps.length) (hcount : steps.length ≤ 8)
    (hsteps : ∀ st ∈ steps, st.address < 0x400000 ∧ ∀ v ∈ st.op.operands, v.toNat < 2 ^ (8 * st.unit.bytes)) :
    readSequence true (be1 steps.length ++ (steps.map SeqStep.toBytes).flatten) = .ok (.sequence steps) := by
  have hwalk := walkSteps_toBytes steps 0 []
  have hasRead : steps.map SeqStep.asRead = steps := by
    refine (List.map_congr_left fun st hst => ?_).trans steps.map_id
    obtain ⟨haddress, hoperands⟩ := hsteps st hst
    exact SeqStep.asRead_eq (by omega) hoperands
  rw [hasRead, Nat.add_zero, List.append_nil] at hwalk
  have hnumber : (BitVec.ofNat 8 steps.length).toNat = steps.length := by
    rw [BitVec.toNat_ofNat]
    omega
  have hall : steps.all (fun st => decide (st.address < Config.addressSpace)) = true := by
    rw [List.all_eq_true]
    exact fun st hst => decide_eq_true (hsteps st hst).1
  simp only [readSequence, be1, List.cons_append, List.nil_append, hnumber, hwalk, walkSteps, List.isEmpty_nil, if_true,
    List.append_nil]
  exact if_pos (by simp [hpos, hcount, hall])

/-! ## Units on the lanes (R11, R12, R67) -/

/-- The number of bits one access moves: 8 on one lane, 16 on both. -/
def Piece.width (p : Piece) : Nat := if p.low && p.high then 16 else if p.low || p.high then 8 else 0

theorem lowByteMask_getLsbD (w k : Nat) : (BitVec.ofNat w 255).getLsbD k = (decide (k < w) && decide (k < 8)) := by
  rw [BitVec.getLsbD_ofNat, show (255 : Nat) = 2 ^ 8 - 1 from rfl, Nat.testBit_two_pow_sub_one]

/-- What an access samples of the data it drives itself are the bits of its place in the unit value, and no others. -/
theorem Piece.sample_drive_getLsbD (p : Piece) (v : Value) {j : Nat} (hj : j < 32) :
    (p.sample (p.drive v)).getLsbD j = (decide (p.shift ≤ j ∧ j < p.shift + p.width) && v.getLsbD j) := by
  by_cases hle : p.shift ≤ j
  · obtain ⟨k, rfl⟩ := Nat.exists_eq_add_of_le hle
    cases hlow : p.low with
    | false =>
      cases hhigh : p.high with
      | false => simp [Piece.sample, Piece.width, hlow, hhigh]
      | true =>
        simp only [Piece.sample, Piece.drive, Piece.width, hlow, hhigh]
        cases hbit : v.getLsbD (p.shift + k)
        · simp [lowByteMask_getLsbD, hbit]
        · simp [lowByteMask_getLsbD, hbit, ← Bool.decide_and]
          omega
    | true =>
      cases hhigh : p.high with
      | false =>
        simp only [Piece.sample, Piece.drive, Piece.width, hlow, hhigh]
        cases hbit : v.getLsbD (p.shift + k)
        · simp [lowByteMask_getLsbD, hbit]
        · simp [lowByteMask_getLsbD, hbit, ← Bool.decide_and]
          omega
      | true =>
        simp only [Piece.sample, Piece.drive, Piece.width, hlow, hhigh]
        cases hbit : v.getLsbD (p.shift + k)
        · simp [hbit]
        · simp [hbit, ← Bool.decide_and]
          omega
  · unfold Piece.sample
    simp [hle, Nat.lt_of_not_le hle]

/-- A fold that joins values bit by bit has the bits of all of them. -/
theorem foldl_or_getLsbD (g : Nat → Value) (l : List Nat) (x : Value) (j : Nat) :
    (l.foldl (fun held i => held ||| g i) x).getLsbD j = (x.getLsbD j || l.any fun i => (g i).getLsbD j) := by
  induction l generalizing x with
  | nil => simp
  | cons i l ih => rw [List.foldl_cons, ih, BitVec.getLsbD_or, List.any_cons, Bool.or_assoc]

/-- Every bit of a unit stands in one of its accesses (R11 to R13). -/
theorem Lane.piece_covers {lane : Lane} (hlane : lane ≠ .unset) (unit : UnitSize) (a : Nat) {j : Nat}
    (hj : j < 8 * unit.bytes) :
    ∃ i < lane.accesses unit,
      (lane.piece unit a i).shift ≤ j ∧ j < (lane.piece unit a i).shift + (lane.piece unit a i).width := by
  cases lane with
  | unset => exact absurd rfl hlane
  | low =>
    refine ⟨j / 8, by simp only [Lane.accesses]; omega, ?_⟩
    simp only [Lane.piece, Piece.width, Bool.and_false, Bool.or_false, Bool.false_eq_true, if_true, if_false]
    omega
  | high =>
    refine ⟨j / 8, by simp only [Lane.accesses]; omega, ?_⟩
    simp only [Lane.piece, Piece.width, Bool.and_true, Bool.or_true, Bool.false_eq_true, if_true, if_false]
    omega
  | both =>
    cases unit with
    | one =>
      refine ⟨0, by decide, ?_⟩
      rcases Nat.mod_two_eq_zero_or_one a with heven | hodd
      · simpa [Lane.piece, Piece.width, heven, UnitSize.bytes] using hj
      · simpa [Lane.piece, Piece.width, hodd, UnitSize.bytes] using hj
    | two => exact ⟨0, by decide, by simpa [Lane.piece, Piece.width, UnitSize.bytes] using hj⟩
    | four =>
      simp only [UnitSize.bytes] at hj
      refine ⟨j / 16, by simp only [Lane.accesses]; omega, ?_⟩
      simp only [Lane.piece, Piece.width, Bool.and_true, if_true]
      omega

/-- A value of a unit has no bits above the unit (R67). -/
theorem UnitSize.lt_of_getLsbD {u : UnitSize} {v : Value} (hv : v.toNat < 2 ^ (8 * u.bytes)) {j : Nat}
    (hj : v.getLsbD j = true) : j < 8 * u.bytes := by
  by_contra hno
  have hsmall : v.toNat < 2 ^ j := lt_of_lt_of_le hv (Nat.pow_le_pow_right (by decide) (by omega))
  rw [BitVec.getLsbD, Nat.testBit_lt_two_pow hsmall] at hj
  cases hj

/-- A unit written access by access and read back access by access is the unit (R11, R12, R67). -/
theorem Lane.sample_drive {lane : Lane} (hlane : lane ≠ .unset) (unit : UnitSize) (a : Nat) {v : Value}
    (hv : v.toNat < 2 ^ (8 * unit.bytes)) :
    (List.range (lane.accesses unit)).foldl
      (fun held i => held ||| (lane.piece unit a i).sample ((lane.piece unit a i).drive v)) 0 = v := by
  refine BitVec.eq_of_getLsbD_eq fun j hj => ?_
  have hzero : (0 : Value).getLsbD j = false := BitVec.getLsbD_zero
  rw [foldl_or_getLsbD, hzero, Bool.false_or]
  simp only [Piece.sample_drive_getLsbD _ _ hj]
  cases hbit : v.getLsbD j with
  | false => simp
  | true =>
    obtain ⟨i, hi, hplace⟩ := Lane.piece_covers hlane unit a (UnitSize.lt_of_getLsbD hv hbit)
    exact List.any_eq_true.mpr ⟨i, List.mem_range.mpr hi, by simp [hplace]⟩

/-- Settles O18: each layout is read back, and so is a unit from its lanes. -/
theorem busDataReadsBack : Obligations.BusDataReadsBack := by
  refine ⟨fun tagByte address unit mode count hspare haddress hpos hsize => ?_,
    fun tagByte address unit mode data hspare haddress hpos hsize hdata => ?_,
    fun tagByte steps hspare hpos hcount hsteps => ?_,
    fun lane unit a v hlane _ hv => Lane.sample_drive hlane unit a hv⟩
  · rw [Kind.busBody, hspare]
    exact readRead_layout unit mode haddress hpos hsize
  · rw [Kind.busBody, hspare]
    exact readWrite_layout unit mode haddress hpos hsize hdata
  · rw [Kind.busBody, hspare]
    exact readSequence_layout hpos hcount hsteps

end Sys2Proof.Machine
end

section
/-! PROOFS. How accesses start: at the end of a GAP or of a retry wait (R33, R34), and at a grant to a link request or
to a poll request (R48 to R52, R106). -/

namespace Sys2Proof.Machine

/-! ## Accesses that start (R22, R24) -/

/-- What goes on with an access is read from the bus. -/
theorem State.accessing_congr {s t t' : State} (h : t'.bus = t.bus) {turn : Turn} {w : WinId} {st : SeqStep} {i : Nat}
    {held : Value} : s.accessing t' turn w st i held ↔ s.accessing t turn w st i held := by
  unfold State.accessing
  rw [h]

/-- A turn that goes on with an access has its window in use (R30). -/
theorem State.accessing.inUse {s t : State} {turn : Turn} {w : WinId} {st : SeqStep} {i : Nat} {held : Value}
    (h : s.accessing t turn w st i held) : t.inUse turn.window = true := by
  obtain ⟨hturn, -, -, b, hstate, -⟩ := h
  simp [State.inUse, hturn, hstate]

/-- Off the wire an event that writes the bus only changes the bus only. -/
theorem State.offWire_of_bus {s x : State} (h : x = { s.transmit with bus := x.bus }) :
    x.transmit.offWire = { s with bus := x.transmit.bus }.offWire := by
  rw [State.transmit_offWire, State.transmit_bus, h]
  apply State.offWire_ext <;> simp

/-- An event that starts the next access of a turn, of a state that differs from `s` on the bus at most (R22, R24). -/
theorem State.startNext_event {s x : State} {turn : Turn} {st : SeqStep} {i : Nat} {held : Value}
    (hx : x = { s.transmit with bus := x.bus }) (hlend : x.bus.lendPending = s.bus.lendPending)
    (hwork : s.workOf turn = some (st, i, held)) :
    (x.startNext turn).transmit.offWire = { s with bus := (x.startNext turn).transmit.bus }.offWire ∧
      s.accessing (x.startNext turn).transmit turn turn.window st i held ∧
      (x.startNext turn).transmit.inUse turn.window = true := by
  have hxwork : x.workOf turn = some (st, i, held) := by
    rw [State.workOf_congr (s := s) (by rw [hx]; simp) (by rw [hx]; simp), hwork]
  have hfields : (x.window turn.window).fields = (s.window turn.window).fields := by
    rw [State.window_congr (s := s) (by rw [hx]; simp)]
  have haccessing : s.accessing (x.startNext turn).transmit turn turn.window st i held :=
    (State.accessing_congr (State.transmit_bus _)).mpr (State.startNext_accessing hfields hxwork hlend)
  refine ⟨State.offWire_of_bus ?_, haccessing, haccessing.inUse⟩
  rw [State.startNext_eq, hx]

/-- GAP_END with a turn: its waiting access starts (R33). -/
theorem exec_gapEnd_starts {s : State} {turn : Turn} {st : SeqStep} {i : Nat} {held : Value} (h : s.phase = .running)
    (hstate : s.bus.state = .gap) (hturn : s.bus.turn = some turn) (hwork : s.workOf turn = some (st, i, held)) :
    ∃ t, exec .gapEnd s = .next t ∧ t.offWire = { s with bus := t.bus }.offWire ∧
      s.accessing t turn turn.window st i held ∧ t.inUse turn.window = true := by
  refine ⟨_, exec_gapEnd h, ?_⟩
  have hgap : s.transmit.gapEnd =
      { s.transmit with bus := { s.transmit.bus with gapRecord := none } }.startNext turn := by
    simp only [State.gapEnd, State.transmit_bus, hstate, hturn]
  rw [hgap]
  exact State.startNext_event rfl (by simp) hwork

/-- GAP_END without a turn: the pending lend is taken (R33, R35). -/
theorem exec_gapEnd_lends {s : State} (h : s.phase = .running) (hstate : s.bus.state = .gap)
    (hturn : s.bus.turn = none) (hlend : s.bus.lendPending = true) :
    ∃ t, exec .gapEnd s = .next t ∧
      t.offWire =
        { s with
          bus := { s.bus with state := .lent, gapRecord := none, lendPending := false,
                              lendCount := min (s.bus.lendCount + 1) 0xFFFFFFFF } }.offWire := by
  refine ⟨_, exec_gapEnd h, ?_⟩
  rw [State.transmit_offWire]
  simp only [State.gapEnd, State.transmit_bus, hstate, hturn, State.endTurn, hlend, if_true, State.takeLend]
  apply State.offWire_ext <;> simp [satInc, Config.max32]

/-- RETRY_WAIT_END: the same access is made again (R34). -/
theorem exec_retryWaitEnd_starts {s : State} {n : Nat} {turn : Turn} {st : SeqStep} {i : Nat} {held : Value}
    (h : s.phase = .running) (hstate : s.bus.state = .retryWait n) (hturn : s.bus.turn = some turn)
    (hwork : s.workOf turn = some (st, i, held)) :
    ∃ t, exec .retryWaitEnd s = .next t ∧ t.offWire = { s with bus := t.bus }.offWire ∧
      s.accessing t turn turn.window st i held ∧ t.inUse turn.window = true := by
  refine ⟨_, exec_retryWaitEnd h, ?_⟩
  have hretry : s.transmit.retryWaitEnd = s.transmit.startNext turn := by
    simp only [State.retryWaitEnd, State.transmit_bus, hstate, hturn]
  rw [hretry]
  exact State.startNext_event rfl (by simp) hwork

/-- Settles O51: either event starts the access that waits; without a turn the lend is taken. -/
theorem waitingAccessStarts : Obligations.WaitingAccessStarts := by
  refine ⟨fun s h hstate => ⟨fun turn st i held hturn hwork => exec_gapEnd_starts h hstate hturn hwork,
    fun hturn hlend => exec_gapEnd_lends h hstate hturn hlend⟩, fun s n turn st i held h hstate hturn hwork =>
    exec_retryWaitEnd_starts h hstate hturn hwork⟩

/-! ## The start of a turn (R22, R33) -/

/-- A turn starts with its access where the release-gap record is absent or names its select line (R33). -/
theorem State.beginTurn_of_sameSelect {s : State} {turn : Turn}
    (h : ∀ g, s.bus.gapRecord = some g → g.select = (s.window turn.window).fields.select) :
    s.beginTurn turn = s.startNext turn := by
  unfold State.beginTurn
  split
  · rfl
  · rename_i g hgap
    exact if_pos (h g hgap)

/-- A turn starts with a GAP where the record names another select line (R33). -/
theorem State.beginTurn_of_otherSelect {s : State} {turn : Turn} {g : GapRecord} (hgap : s.bus.gapRecord = some g)
    (h : g.select ≠ (s.window turn.window).fields.select) :
    s.beginTurn turn = { s with bus := { s.bus with state := .gap, turn := some turn } } := by
  simp only [State.beginTurn, hgap, if_neg h]

/-- However a turn with work starts, it is the turn in service: in its first access, or in a GAP before it. -/
theorem State.beginTurn_starts {s x : State} {turn : Turn} {st : SeqStep} {i : Nat} {held : Value}
    (hwindows : x.windows = s.windows) (hbus : x.bus = s.bus) (hwork : x.workOf turn = some (st, i, held)) :
    ((∀ g, s.bus.gapRecord = some g → g.select = (s.window turn.window).fields.select) →
        s.accessing (x.beginTurn turn) turn turn.window st i held) ∧
      (∀ g, s.bus.gapRecord = some g → g.select ≠ (s.window turn.window).fields.select →
        (x.beginTurn turn).bus = { s.bus with state := .gap, turn := some turn }) := by
  refine ⟨fun hsame => ?_, fun g hgap hother => ?_⟩
  · rw [State.beginTurn_of_sameSelect (by rw [hbus, State.window_congr hwindows]; exact hsame)]
    exact State.startNext_accessing (by rw [State.window_congr hwindows]) hwork (by rw [hbus])
  · rw [State.beginTurn_of_otherSelect (g := g) (by rw [hbus, hgap])
      (by rw [State.window_congr hwindows]; exact hother), hbus]

/-- The turn in service after the start of a turn with work is that turn. -/
theorem State.beginTurn_turn {s : State} {turn : Turn} {work : SeqStep × Nat × Value}
    (hwork : s.workOf turn = some work) : (s.beginTurn turn).bus.turn = some turn := by
  obtain ⟨st, i, held⟩ := work
  unfold State.beginTurn
  split
  · rw [State.startNext_of_work hwork]; rfl
  · split
    · rw [State.startNext_of_work hwork]; rfl
    · rfl

/-! ## The arbiter's decision (R49 to R51) -/

theorem State.busFree_iff {s : State} :
    s.busFree = true ↔ s.bus.state = .idle ∧ s.bus.turn = none ∧ s.bus.lendPending = false := by
  simp [State.busFree, and_assoc]

/-- A link request wins unless the poll share is used up and a poll is eligible (R51). -/
theorem State.choose_link {s : State} {e : LinkEntry} (hlink : s.linkCandidate = some e)
    (hpoll : s.pollCandidate = none ∨ s.linkGrants < s.timing.pollShare) : s.choose = some (.link e) := by
  unfold State.choose
  rw [hlink]
  cases hcandidate : s.pollCandidate with
  | none => rfl
  | some id =>
    have hshare := hpoll.resolve_left (by rw [hcandidate]; exact Option.some_ne_none id)
    exact if_neg (by omega)

/-- A poll wins when no link request is eligible or the poll share is used up (R51). -/
theorem State.choose_poll {s : State} {id : WatchId} (hpoll : s.pollCandidate = some id)
    (hlink : s.linkCandidate = none ∨ s.timing.pollShare ≤ s.linkGrants) : s.choose = some (.poll id) := by
  unfold State.choose
  rw [hpoll]
  cases hcandidate : s.linkCandidate with
  | none => rfl
  | some e => exact if_pos (hlink.resolve_left (by rw [hcandidate]; exact Option.some_ne_none e))

/-- On a free bus the winner is granted (R50, R51). -/
theorem State.grant_of_choose {s : State} (hfree : s.busFree = true) :
    (∀ e, s.choose = some (.link e) → s.grant = s.grantLink e) ∧
      (∀ id, s.choose = some (.poll id) → s.grant = s.grantPoll id) ∧ (s.choose = none → s.grant = s) := by
  unfold State.grant
  rw [if_pos hfree]
  refine ⟨fun e h => ?_, fun id h => ?_, fun h => ?_⟩ <;> rw [h]

/-! ## A grant to a link request (R51, R52) -/

/-- A link entry once it is granted: ACTIVE, with no backoff left (R51). -/
def LinkEntry.granted (e : LinkEntry) : LinkEntry := { e with state := .active, retryTime := none }

/-- The turn of a granted link entry (R22). -/
def LinkEntry.turn (e : LinkEntry) : Turn :=
  { holder := .link e.tag, window := e.window, pollIndex := 0, pollHeld := 0 }

/-- The state in which the turn of a granted entry starts: the entry ACTIVE, the grant counted (R51). -/
def State.grantedLink (s : State) (e : LinkEntry) : State :=
  { s.updateEntry e.granted with linkGrants := min (s.linkGrants + 1) 8 }

theorem State.grantLink_of_recheck {s : State} {e : LinkEntry} (h : s.recheck e = none) :
    s.grantLink e = (s.grantedLink e).beginTurn e.turn := by
  simp only [State.grantLink, h]
  rfl

/-- A queued entry's tag has an entry in the queue. -/
theorem State.entryOf_of_mem {s : State} {e : LinkEntry} (h : e ∈ s.queue) : ∃ y, s.entryOf e.tag = some y := by
  cases hentry : s.entryOf e.tag with
  | some y => exact ⟨y, rfl⟩
  | none =>
    have habsent := List.find?_eq_none.mp hentry e h
    simp at habsent

/-- The granted turn works on the entry's unit or step, at its access (R22, R43). -/
theorem State.workOf_grantedLink {s : State} {e : LinkEntry} {st : SeqStep} (hmem : e ∈ s.queue)
    (hwork : e.request.workAt e.done = some st) :
    (s.grantedLink e).workOf e.turn = some (st, e.accessIndex, e.held) := by
  obtain ⟨y, hy⟩ := State.entryOf_of_mem hmem
  have hentry : (s.updateEntry e.granted).entryOf e.tag = some e.granted :=
    State.updateEntry_entryOf (e' := e.granted) hy
  have hgranted : (s.grantedLink e).entryOf e.tag = some e.granted := hentry
  have hwork' : e.granted.request.workAt e.granted.done = some st := hwork
  simp only [State.workOf, LinkEntry.turn, hgranted, hwork', Option.map_some]
  rfl

/-- GRANT to a link request whose re-check passes: the entry is ACTIVE, the grant is counted, and its turn starts (R51,
R52). -/
theorem exec_grant_link {s : State} {e : LinkEntry} {st : SeqStep} (h : s.phase = .running) (hfree : s.busFree = true)
    (hchoose : s.choose = some (.link e)) (hmem : e ∈ s.queue) (hrecheck : s.recheck e = none)
    (hwork : e.request.workAt e.done = some st) :
    ∃ t, exec .grant s = .next t ∧
      t.offWire =
        { s with
          linkGrants := min (s.linkGrants + 1) 8, bus := t.bus,
          queue := (s.updateEntry e.granted).queue }.offWire ∧
      t.bus.turn = some e.turn ∧
      ((∀ g, s.bus.gapRecord = some g → g.select = (s.window e.window).fields.select) →
        s.accessing t e.turn e.window st e.accessIndex e.held) ∧
      (∀ g, s.bus.gapRecord = some g → g.select ≠ (s.window e.window).fields.select →
        t.bus = { s.bus with state := .gap, turn := some e.turn }) := by
  have hgrant : s.transmit.grant = (s.transmit.grantedLink e).beginTurn e.turn := by
    rw [(State.grant_of_choose (by rw [State.transmit_busFree, hfree])).1 e (by rw [State.transmit_choose, hchoose]),
      State.grantLink_of_recheck (by rw [State.transmit_recheck, hrecheck])]
  have hworkOf : (s.transmit.grantedLink e).workOf e.turn = some (st, e.accessIndex, e.held) :=
    State.workOf_grantedLink (by rw [State.transmit_queue]; exact hmem) hwork
  obtain ⟨hsame, hother⟩ := State.beginTurn_starts (s := s) (x := s.transmit.grantedLink e)
    (by simp [State.grantedLink]) (by simp [State.grantedLink]) hworkOf
  refine ⟨_, exec_grant h, ?_⟩
  rw [hgrant, State.transmit_bus]
  refine ⟨?_, State.beginTurn_turn hworkOf, fun hg => (State.accessing_congr (State.transmit_bus _)).mpr (hsame hg),
    hother⟩
  rw [State.transmit_offWire, State.beginTurn_eq]
  apply State.offWire_ext <;> simp [State.grantedLink, State.updateEntry]

/-- The byte enables of an access, by the lane of its window (R11, R12). -/
theorem SeqStep.pieceAt_enables (st : SeqStep) (i : Nat) :
    ((st.pieceAt .low i).low = true ∧ (st.pieceAt .low i).high = false) ∧
      ((st.pieceAt .high i).low = false ∧ (st.pieceAt .high i).high = true) ∧
      (st.unit = .one → (st.pieceAt .both i).low = decide (st.address % 2 = 0) ∧
        (st.pieceAt .both i).high = decide (st.address % 2 = 1)) ∧
      (st.unit ≠ .one → (st.pieceAt .both i).low = true ∧ (st.pieceAt .both i).high = true) := by
  refine ⟨⟨rfl, rfl⟩, ⟨rfl, rfl⟩, fun hunit => ?_, fun hunit => ?_⟩
  · simp only [SeqStep.pieceAt, Lane.piece, hunit, and_self]
  · cases h : st.unit with
    | one => exact absurd h hunit
    | two => simp only [SeqStep.pieceAt, Lane.piece, h, and_self]
    | four => simp only [SeqStep.pieceAt, Lane.piece, h, and_self]

/-- The candidate is the first entry of the queue that may be granted (R46, R48, R51). -/
theorem State.linkCandidate_iff {s : State} {e : LinkEntry} (hnodup : (s.queue.map LinkEntry.tag).Nodup) :
    s.linkCandidate = some e ↔
      ∃ older younger, s.queue = older ++ e :: younger ∧ e.grantableBehind older ∧
        ∀ before x after, older = before ++ x :: after → ¬ x.grantableBehind before := by
  rw [State.linkCandidate, List.find?_eq_some_iff_append]
  constructor
  · rintro ⟨heligible, older, younger, hqueue, hnone⟩
    refine ⟨older, younger, hqueue, (State.eligibleLink_iff hnodup hqueue).mp heligible, ?_⟩
    rintro before x after rfl hgrantable
    have hplace : s.queue = before ++ x :: (after ++ e :: younger) := by
      rw [hqueue, List.append_assoc, List.cons_append]
    have hrefused := hnone x (by simp)
    rw [(State.eligibleLink_iff hnodup hplace).mpr hgrantable] at hrefused
    cases hrefused
  · rintro ⟨older, younger, hqueue, hgrantable, hnone⟩
    refine ⟨(State.eligibleLink_iff hnodup hqueue).mpr hgrantable, older, younger, hqueue, fun x hx => ?_⟩
    obtain ⟨before, after, hsplit⟩ := List.append_of_mem hx
    rw [Bool.not_eq_true', ← Bool.not_eq_true]
    intro heligible
    have hplace : s.queue = before ++ x :: (after ++ e :: younger) := by
      rw [hqueue, hsplit, List.append_assoc, List.cons_append]
    exact hnone before x after hsplit ((State.eligibleLink_iff hnodup hplace).mp heligible)

/-- Settles O39: the winner's turn starts with its access or a GAP; the candidate is the first that may be granted. -/
theorem grantToLink : Obligations.GrantToLink := by
  refine ⟨fun s e st h hidle hturn hlend hlink hpoll hrecheck hwork => ?_, fun s e hnodup =>
    State.linkCandidate_iff hnodup⟩
  obtain ⟨t, hexec, hoff, hnow, hsame, hother⟩ := exec_grant_link h (State.busFree_iff.mpr ⟨hidle, hturn, hlend⟩)
    (State.choose_link hlink hpoll) (List.mem_of_find?_eq_some hlink) hrecheck hwork
  refine ⟨t, hexec, hoff, by rw [hnow]; rfl, fun g hgap hselect => ?_, fun hselect => ?_⟩
  · rw [hother g hgap hselect]
    exact ⟨rfl, hgap⟩
  · obtain ⟨-, hgap, -, a, hstate, hwindow, haddress, hline, hlow, hhigh, hdir, hdata, hprofile, helapsed⟩ :=
      hsame hselect
    obtain ⟨hlaneLow, hlaneHigh, hone, hmore⟩ := st.pieceAt_enables e.accessIndex
    refine ⟨hgap, a, hstate, hwindow, haddress, hline, hdir, hprofile, helapsed, ?_⟩
    dsimp only at hlow hhigh hdir hdata ⊢
    rw [hlow, hhigh]
    refine ⟨fun hlane => by rw [hlane]; exact hlaneLow, fun hlane => by rw [hlane]; exact hlaneHigh,
      fun hlane hunit => by rw [hlane]; exact hone hunit, fun hlane hunit => by rw [hlane]; exact hmore hunit, hdata,
      fun v hop => ?_⟩
    have hwrites : a.dir = .write := by rw [hdir, SeqStep.dirAt, hop]
    refine ⟨hwrites, ?_⟩
    rw [hdata hwrites, SeqStep.writeValue, hop]

/-! ## A grant to a poll request (R49, R51, R106) -/

/-- The turn of a granted poll request, with nothing read yet (R106). -/
def pollTurnOf (id : WatchId) (w : WinId) : Turn := { holder := .poll id, window := w, pollIndex := 0, pollHeld := 0 }

theorem State.grantPoll_of_window {s : State} {id : WatchId} {w : WinId} (h : s.watchWindow id = some w) :
    s.grantPoll id = { s with linkGrants := 0 }.beginTurn (pollTurnOf id w) := by
  simp only [State.grantPoll, h]
  rfl

/-- GRANT to a poll request: the counter returns to 0, and its turn starts (R51, R106). -/
theorem exec_grant_poll {s : State} {id : WatchId} {x : WatchEntry} {w : WinId} (h : s.phase = .running)
    (hfree : s.busFree = true) (hchoose : s.choose = some (.poll id)) (hx : s.watchOf id = some x)
    (hdecode : s.decode x.config.address = some w) :
    ∃ t, exec .grant s = .next t ∧ t.offWire = { s with linkGrants := 0, bus := t.bus }.offWire ∧
      t.bus.turn = some (pollTurnOf id w) ∧
      ((∀ g, s.bus.gapRecord = some g → g.select = (s.window w).fields.select) →
        s.accessing t (pollTurnOf id w) w x.config.work 0 0) ∧
      (∀ g, s.bus.gapRecord = some g → g.select ≠ (s.window w).fields.select →
        t.bus = { s.bus with state := .gap, turn := some (pollTurnOf id w) }) := by
  have hwindow : s.transmit.watchWindow id = some w := by
    rw [State.transmit_watchWindow, State.watchWindow, hx]
    exact hdecode
  have hgrant : s.transmit.grant = { s.transmit with linkGrants := 0 }.beginTurn (pollTurnOf id w) := by
    rw [(State.grant_of_choose (by rw [State.transmit_busFree, hfree])).2.1 id (by rw [State.transmit_choose, hchoose]),
      State.grantPoll_of_window hwindow]
  have hworkOf : ({ s.transmit with linkGrants := 0 } : State).workOf (pollTurnOf id w) =
      some (x.config.work, 0, 0) := by
    rw [State.workOf_congr (s := s) (by simp) (by simp)]
    simp only [State.workOf, pollTurnOf, hx, Option.map_some]
  obtain ⟨hsame, hother⟩ := State.beginTurn_starts (s := s) (by simp) (by simp) hworkOf
  refine ⟨_, exec_grant h, ?_⟩
  rw [hgrant, State.transmit_bus]
  refine ⟨?_, State.beginTurn_turn hworkOf, fun hg => (State.accessing_congr (State.transmit_bus _)).mpr (hsame hg),
    hother⟩
  rw [State.transmit_offWire, State.beginTurn_eq]
  apply State.offWire_ext <;> simp

/-- The candidate is the first poll request of the poll queue that may be granted (R49, R51). -/
theorem State.pollCandidate_iff {s : State} {id : WatchId} :
    s.pollCandidate = some id ↔
      ∃ older younger, s.pollQueue = older ++ id :: younger ∧ s.pollGrantable id ∧
        ∀ x ∈ older, ¬ s.pollGrantable x := by
  rw [State.pollCandidate, List.find?_eq_some_iff_append, State.eligiblePoll_iff]
  simp only [Bool.not_eq_true', ← Bool.not_eq_true, State.eligiblePoll_iff]
  constructor
  · rintro ⟨hgrantable, older, younger, hqueue, hnone⟩
    exact ⟨older, younger, hqueue, hgrantable, hnone⟩
  · rintro ⟨older, younger, hqueue, hgrantable, hnone⟩
    exact ⟨hgrantable, older, younger, hqueue, hnone⟩

/-- While the bus is not free or nothing is eligible, GRANT changes nothing (R48 to R50). -/
theorem State.grant_of_nothing {s : State}
    (h : s.bus.state ≠ .idle ∨ s.bus.lendPending = true ∨ (s.linkCandidate = none ∧ s.pollCandidate = none)) :
    s.grant = s := by
  by_cases hfree : s.busFree = true
  · obtain ⟨hidle, -, hlend⟩ := State.busFree_iff.mp hfree
    rcases h with hbusy | hpending | ⟨hlink, hpoll⟩
    · exact absurd hidle hbusy
    · rw [hlend] at hpending
      cases hpending
    · exact (State.grant_of_choose hfree).2.2 (by simp only [State.choose, hlink, hpoll])
  · exact if_neg hfree

/-- Settles O40: the winner's turn starts with its first access or a GAP; else nothing changes. -/
theorem grantToPoll : Obligations.GrantToPoll := by
  refine ⟨fun s id x w h hidle hturn hlend hpoll hlink hx hdecode => ?_, fun s id => State.pollCandidate_iff,
    fun s h hnothing => ⟨_, exec_grant h, ?_⟩⟩
  · obtain ⟨t, hexec, hoff, hnow, hsame, hother⟩ := exec_grant_poll h (State.busFree_iff.mpr ⟨hidle, hturn, hlend⟩)
      (State.choose_poll hpoll hlink) hx hdecode
    exact ⟨t, hexec, hoff, hnow, hsame, fun g hgap hselect => by rw [hother g hgap hselect]⟩
  · rw [State.transmit_offWire, State.grant_of_nothing (by simpa using hnothing), State.transmit_offWire]

end Sys2Proof.Machine
end

section
/-! PROOFS. What a step is made of, said once for every invariant: the effects a command can have (`EffectsWithin`), and
that a relation which holds across each of them holds across every step. -/

namespace Sys2Proof.Machine

/-- A request that passes its checks may be accepted bound to window `w` (R44, R71, R146): the queue has room, and a bus
request has a first unit and needs FORCE where the window is FAILED. -/
def State.admits (s : State) (tagByte : Byte) (w : WinId) (r : LinkRequest) : Prop :=
  s.queueFull = false ∧
    (r.isBus = true → (r.workAt 0).isSome = true ∧
      (forceOf tagByte = true ∨ (s.window w).health.state ≠ .failed))

theorem Except.ok_of_ite_error {ε α : Type} {c : Prop} [Decidable c] {e : ε} {r : Except ε α} {a : α}
    (h : (if c then .error e else r) = .ok a) : ¬ c ∧ r = .ok a := by
  by_cases hc : c
  · rw [if_pos hc] at h
    cases h
  · exact ⟨hc, by rwa [if_neg hc] at h⟩

/-- What passes checks 3 to 8 of R71 may be accepted. -/
theorem State.admits_of_checkBus {s : State} {tagByte : Byte} {w : WinId} {r : LinkRequest}
    (h : s.checkBus (forceOf tagByte) r = .ok w) : s.admits tagByte w r := by
  unfold State.checkBus State.firstWindow at h
  cases hfirst : r.workAt 0 with
  | none => simp [hfirst] at h
  | some st =>
    cases hdecode : s.decode st.address with
    | none => simp [hfirst, hdecode] at h
    | some v =>
      simp only [hfirst, hdecode] at h
      obtain ⟨-, h⟩ := Except.ok_of_ite_error h
      obtain ⟨-, h⟩ := Except.ok_of_ite_error h
      obtain ⟨-, h⟩ := Except.ok_of_ite_error h
      obtain ⟨hfailed, h⟩ := Except.ok_of_ite_error h
      obtain ⟨hroom, h⟩ := Except.ok_of_ite_error h
      obtain rfl : v = w := by simpa using h
      refine ⟨by simpa using hroom, fun _ => ⟨by rw [hfirst]; rfl, ?_⟩⟩
      cases hforce : forceOf tagByte <;> simp_all

/-- A preorder on states that holds across every effect a command can have. Each field is one effect, under the guard
with which the model reaches it. -/
structure EffectsWithin (R : State → State → Prop) : Prop where
  refl : ∀ s : State, R s s
  trans : ∀ {s t u : State}, R s t → R t u → R s u
  transmit : ∀ s : State, R s s.transmit
  deferTimer : ∀ s : State, R s s.deferTimer
  receiver : ∀ (s : State) (rx : Receiver), R s { s with rx := rx }
  hear : ∀ s : State, R s s.hear
  answer : ∀ (s : State) (kind tagByte : Byte) (status : Status) (contents : List Byte),
    R s (s.answer kind tagByte status contents)
  countDuplicate : ∀ s : State, R s s.countDuplicate
  list : ∀ {s : State} {t : Tag}, (s.tagOf t).isDone = true → R s (s.list t)
  clearTag : ∀ {s : State} {t : Tag}, (s.tagOf t).isDone = true → R s (s.clearTag t)
  store : ∀ {s : State} {t : Tag} (phase : Bool) (r : Reply), s.tagOf t = .empty → R s (s.store t phase r)
  accept : ∀ {s : State} {t : Tag} {tagByte : Byte} {w : WinId} {r : LinkRequest}, s.tagOf t = .empty →
    s.admits tagByte w r → R s (s.accept t tagByte w r)
  setWatch : ∀ {s : State} {id : WatchId} {c : WatchConfig}, s.checkWatch id c = none →
    R s (s.setWatch id (some (.fresh c)))
  dropWatch : ∀ (s : State) (id : WatchId), R s (s.dropWatch id)
  clearCounters : ∀ (s : State) (w : WinId), R s (s.setStats w { s.statsOf w with counters := .zero })
  setTiming : ∀ (s : State) (timing : Timing), R s { s with timing := timing }
  acknowledge : ∀ (s : State) (n : Nat),
    R s { s with notices := s.notices.acknowledge n s.resendTime s.timerAtFrameEnd }
  abortEntry : ∀ {s : State} {e : LinkEntry}, s.entryOf e.tag = some e → R s (s.abortEntry e)
  restarted : ∀ s : State, R s s.restarted
  grant : ∀ s : State, R s s.grant
  accessEnd : ∀ (s : State) (ready : List Bool) (deferred : Bool) (lines : BusData),
    R s (s.accessEnd ready deferred lines)
  gapEnd : ∀ s : State, R s s.gapEnd
  retryWaitEnd : ∀ s : State, R s s.retryWaitEnd
  backoffEnd : ∀ (s : State) (t : Tag), R s (s.backoffEnd t)
  deadlinePasses : ∀ (s : State) (t : Tag), R s (s.deadlinePasses t)
  takesEffect : ∀ (s : State) (w : WinId), R s (s.takesEffect w)
  setLreq : ∀ (s : State) (b : Bool), R s { s with lreq := b }
  lreqAsserted : ∀ s : State, R s s.lreqAsserted
  lreqWithdrawn : ∀ s : State, R s s.lreqWithdrawn
  lendTaken : ∀ s : State, R s s.lendTaken
  reclaimEnd : ∀ s : State, R s s.reclaimEnd
  pollTick : ∀ s : State, R s s.pollTick
  intervalEnd : ∀ s : State, R s s.intervalEnd
  resendExpiry : ∀ s : State, R s s.resendExpiry
  frameEnd : ∀ s : State, R s s.frameEnd
  boot : ∀ (s : State) (cause : ResetCause) (rate : BitVec 2), R s (s.boot cause rate)
  initialised : ∀ (s : State) (rate : BitVec 2) (cause : ResetCause),
    R s { s.initialised rate with phase := .inReset cause }
  setPending : ∀ (s : State) (rest : List Instr), R s { s with pending := rest }
  elapse : ∀ s : State, R s s.elapse

namespace EffectsWithin

variable {R : State → State → Prop}

/-! ## Requests at the tracker (R144 to R153) -/

/-- A frame of a tagged kind is taken as new only under a tag that is EMPTY or has just been cleared (R145). -/
theorem tagged (h : EffectsWithin R) {kind : Kind} {tagByte : Byte} {new : Tag → State → State}
    (hnew : ∀ (t : Tag) (x : State), x.tagOf t = .empty → R x (new t x)) (s : State) :
    R s (s.tagged kind tagByte new) := by
  unfold State.tagged
  split
  · exact h.answer ..
  · rename_i t _
    split
    · exact hnew t s ‹_›
    · split
      · exact h.countDuplicate s
      · exact h.answer ..
    · rename_i hdone
      have hisDone : (s.tagOf t).isDone = true := by rw [hdone]; rfl
      split
      · exact h.list hisDone
      · exact h.trans (h.clearTag hisDone) (hnew t _ (by simp [State.clearTag, State.tagOf]))


theorem refuse (h : EffectsWithin R) {s : State} {t : Tag} (hempty : s.tagOf t = .empty) (kind : Kind) (tagByte : Byte)
    (status : Status) : R s (s.refuse kind t tagByte status) := h.store _ _ hempty

theorem executed (h : EffectsWithin R) {s : State} {t : Tag} (hempty : s.tagOf t = .empty) (kind : Kind)
    (tagByte : Byte) (contents : List Byte) : R s (s.executed kind t tagByte contents) := h.store _ _ hempty

theorem newBus (h : EffectsWithin R) {s : State} {t : Tag} (hempty : s.tagOf t = .empty) (kind : Kind) (tagByte : Byte)
    (r : Except Status LinkRequest) : R s (s.newBus kind t tagByte r) := by
  unfold State.newBus
  split
  · exact h.refuse hempty ..
  · split
    · exact h.refuse hempty ..
    · exact h.accept hempty (State.admits_of_checkBus ‹_›)

theorem newWindowRequest (h : EffectsWithin R) {s : State} {t : Tag} (hempty : s.tagOf t = .empty) (kind : Kind)
    (tagByte : Byte) {r : Except Status (WinId × LinkRequest)} (hr : ∀ p, r = .ok p → p.2.isBus = false) :
    R s (s.newWindowRequest kind t tagByte r) := by
  unfold State.newWindowRequest
  split
  · exact h.refuse hempty ..
  · split
    · exact h.refuse hempty ..
    · rename_i hfull
      refine h.accept hempty ⟨by simpa using hfull, fun hbus => ?_⟩
      have hno := hr _ rfl
      rw [hbus] at hno
      cases hno

theorem newWatchSet (h : EffectsWithin R) {s : State} {t : Tag} (hempty : s.tagOf t = .empty) (tagByte : Byte)
    (r : Except Status (WatchId × WatchConfig)) : R s (s.newWatchSet t tagByte r) := by
  unfold State.newWatchSet
  split
  · exact h.refuse hempty ..
  · split
    · exact h.refuse hempty ..
    · rename_i hcheck
      refine h.trans (h.setWatch hcheck) (h.executed ?_ ..)
      exact hempty

theorem newWatchDrop (h : EffectsWithin R) {s : State} {t : Tag} (hempty : s.tagOf t = .empty) (tagByte : Byte)
    (r : Except Status WatchId) : R s (s.newWatchDrop t tagByte r) := by
  unfold State.newWatchDrop
  split
  · exact h.refuse hempty ..
  · split
    · exact h.refuse hempty ..
    · refine h.trans (h.dropWatch s _) (h.executed ?_ ..)
      rwa [State.tagOf_congr (s := s) (by simp [State.dropWatch])]

theorem newCountersClear (h : EffectsWithin R) {s : State} {t : Tag} (hempty : s.tagOf t = .empty) (tagByte : Byte)
    (r : Except Status WinId) : R s (s.newCountersClear t tagByte r) := by
  unfold State.newCountersClear
  split
  · exact h.refuse hempty ..
  · split
    · refine h.trans (h.clearCounters s _) (h.executed ?_ ..)
      exact hempty
    · exact h.refuse hempty ..

theorem newTimingSet (h : EffectsWithin R) {s : State} {t : Tag} (hempty : s.tagOf t = .empty) (tagByte : Byte)
    (r : Except Status Timing) : R s (s.newTimingSet t tagByte r) := by
  unfold State.newTimingSet
  split
  · exact h.refuse hempty ..
  · refine h.trans (h.setTiming s _) (h.executed ?_ ..)
    exact hempty

theorem takeNoticeAck (h : EffectsWithin R) (s : State) (tagByte : Byte) (body : List Byte) :
    R s (takeNoticeAck tagByte body s) := by
  unfold Machine.takeNoticeAck
  split
  · exact h.answer ..
  · split
    · exact h.trans (h.acknowledge s _) (h.answer ..)
    · exact h.answer ..

theorem takeAbort (h : EffectsWithin R) (s : State) (tagByte : Byte) (body : List Byte) :
    R s (takeAbort tagByte body s) := by
  unfold Machine.takeAbort
  split
  · exact h.answer ..
  · split
    · exact h.answer ..
    · rename_i e he
      refine h.trans (h.abortEntry ?_) (h.answer ..)
      rw [State.entryOf_tag he, he]

/-- The queries are answered from the tables and change none. -/
theorem takeQueries (h : EffectsWithin R) (s : State) (tagByte : Byte) (body : List Byte) (prior : LinkState) :
    R s (takeWindowQuery tagByte body s) ∧ R s (takeWatchQuery tagByte body s) ∧
      R s (takeCountersRead tagByte body s) ∧ R s (takeHistoryRead tagByte body s) ∧
      R s (takeStatus tagByte body prior s) ∧ R s (takeIdentify tagByte body s) := by
  unfold takeWindowQuery takeWatchQuery takeCountersRead takeHistoryRead takeStatus takeIdentify
  refine ⟨?_, ?_, ?_, ?_, ?_, ?_⟩
  all_goals
    repeat' split
    all_goals exact h.answer ..

/-- Every frame at the tracker (R144). -/
theorem take (h : EffectsWithin R) (s : State) (kind tagByte : Byte) (body : List Byte) (prior : LinkState) :
    R s (s.take kind tagByte body prior) := by
  obtain ⟨hwindow, hwatch, hcounters, hhistory, hstatus, hidentify⟩ := h.takeQueries s tagByte body prior
  unfold State.take
  split
  · exact h.answer ..
  · exact h.tagged (fun _ _ hempty => h.newBus hempty ..) s
  · exact h.tagged (fun _ _ hempty => h.newBus hempty ..) s
  · exact h.tagged (fun _ _ hempty => h.newBus hempty ..) s
  · refine h.tagged (fun _ _ hempty => h.newWindowRequest hempty _ _ fun p hp => ?_) s
    split at hp <;> simp at hp
    rw [← hp]
    rfl
  · refine h.tagged (fun _ _ hempty => h.newWindowRequest hempty _ _ fun p hp => ?_) s
    split at hp <;> simp at hp
    rw [← hp]
    rfl
  · exact hwindow
  · exact h.tagged (fun _ _ hempty => h.newWatchSet hempty ..) s
  · exact h.tagged (fun _ _ hempty => h.newWatchDrop hempty ..) s
  · exact hwatch
  · exact hcounters
  · exact h.tagged (fun _ _ hempty => h.newCountersClear hempty ..) s
  · exact hhistory
  · exact h.tagged (fun _ _ hempty => h.newTimingSet hempty ..) s
  · exact hstatus
  · exact hidentify
  · exact h.takeNoticeAck ..
  · exact h.takeAbort ..
  · unfold takeRestart
    split
    · exact h.answer ..
    · exact h.trans (h.restarted s) (h.answer ..)

theorem arrive (h : EffectsWithin R) (s : State) (kind tagByte : Byte) (body : List Byte) :
    R s (s.arrive kind tagByte body) := h.trans (h.hear s) (h.take ..)

/-! ## The link (R159 to R169) -/

theorem handOver (h : EffectsWithin R) (s : State) (frame : List Byte) : R s (s.handOver frame) :=
  h.trans (h.receiver s _) (h.trans (h.arrive ..) (h.transmit _))

/-- A run of bytes hands over frames and counts bad ones (R162 to R165). -/
theorem scan (h : EffectsWithin R) (fuel : Nat) (input : List Byte) (s : State) : R s (s.scan fuel input) := by
  induction fuel generalizing s input with
  | zero => exact h.receiver s _
  | succ fuel ih =>
    unfold State.scan
    split
    · exact h.receiver s _
    · exact h.receiver s _
    · split
      · exact h.trans (h.receiver s _) (ih _ _)
      · split
        · exact h.receiver s _
        · dsimp only
          split
          · exact h.trans (h.handOver s _) (ih _ _)
          · exact h.trans (h.receiver s _) (ih _ _)

theorem byteArrival (h : EffectsWithin R) (s : State) (data : Byte) (stopHigh : Bool) :
    R s (s.byteArrival data stopHigh) := by
  unfold State.byteArrival
  split
  · exact h.trans (h.receiver s _) (h.trans (h.scan ..) (h.receiver _ _))
  · exact h.refl s
  · exact h.refl s

theorem gapExpiry (h : EffectsWithin R) (s : State) : R s s.gapExpiry := by
  unfold State.gapExpiry
  split
  · exact h.refl s
  · exact h.receiver s _

theorem receiverStart (h : EffectsWithin R) (s : State) : R s s.receiverStart := by
  unfold State.receiverStart
  split
  · exact h.receiver s _
  · exact h.refl s
  · exact h.refl s

theorem highAfterBreak (h : EffectsWithin R) (s : State) : R s s.highAfterBreak := by
  unfold State.highAfterBreak
  split
  · exact h.receiver s _
  · exact h.refl s
  · exact h.refl s

/-! ## Every command, every step -/

/-- The envelope of a command adds the choices of the transmitter (R168). -/
theorem event (h : EffectsWithin R) {f : State → State} (hf : ∀ x : State, R x (f x)) (s : State) :
    R s (s.event f) := by
  unfold State.event
  split
  · exact h.refl s
  · exact h.trans (h.transmit s) (h.trans (hf _) (h.transmit _))

theorem entryEvent (h : EffectsWithin R) {f : State → State} (hf : ∀ x : State, R x (f x)) (s : State) :
    R s (s.entryEvent f) := by
  unfold State.entryEvent
  split
  · exact h.refl s
  · refine h.trans (h.transmit s) (h.trans (hf _) ?_)
    exact State.chooseAfterEntry_ind (P := R _) (h.transmit _) fun hchosen => h.trans hchosen (h.deferTimer _)

/-- A relation that holds across every effect holds from a state to what any command answers in it. -/
theorem exec (h : EffectsWithin R) {c : Instr} {s t : State} (hexec : exec c s = .next t) : R s t := by
  have hevent : ∀ {f : State → State} (x : State), (∀ y : State, R y (f y)) → R s x → .next (x.event f) =
      (.next t : Host.Outcome State Fault Refusal) → R s t := by
    rintro f x hf hx ⟨⟩
    exact h.trans hx (h.event hf x)
  have hentry : ∀ {f : State → State}, (∀ y : State, R y (f y)) → .next (s.entryEvent f) =
      (.next t : Host.Outcome State Fault Refusal) → R s t := by
    rintro f hf ⟨⟩
    exact h.entryEvent hf s
  cases c with
  | powerOn rate =>
    simp only [Machine.exec, execPowerOn] at hexec
    split at hexec <;> cases hexec
    · exact h.trans (h.boot ..) (h.transmit _)
    · exact h.initialised ..
  | rstnAsserted =>
    simp only [Machine.exec, execRstnAsserted] at hexec
    split at hexec <;> cases hexec
    · exact h.initialised ..
    · exact h.refl s
  | rstnWithdrawn rate =>
    simp only [Machine.exec, execRstnWithdrawn] at hexec
    split at hexec <;> cases hexec
    · exact h.transmit s
    · exact h.trans (h.boot ..) (h.transmit _)
  | receiverStart => exact hevent s h.receiverStart (h.refl s) hexec
  | byteArrival data stopHigh => exact hevent s (fun x => h.byteArrival x ..) (h.refl s) hexec
  | gapTimerExpiry => exact hevent s h.gapExpiry (h.refl s) hexec
  | frameEnd => exact hevent s h.frameEnd (h.refl s) hexec
  | rxdHighAfterBreak => exact hevent s h.highAfterBreak (h.refl s) hexec
  | grant => exact hevent s h.grant (h.refl s) hexec
  | accessEnd ready deferred lines => exact hentry (fun x => h.accessEnd x ..) hexec
  | gapEnd => exact hevent s h.gapEnd (h.refl s) hexec
  | retryWaitEnd => exact hevent s h.retryWaitEnd (h.refl s) hexec
  | backoffEnd tag => exact hevent s (fun x => h.backoffEnd x tag) (h.refl s) hexec
  | deadline tag => exact hevent s (fun x => h.deadlinePasses x tag) (h.refl s) hexec
  | windowRequestTakesEffect w => exact hevent s (fun x => h.takesEffect x w) (h.refl s) hexec
  | lreqnAsserted => exact hevent _ h.lreqAsserted (h.setLreq s true) hexec
  | lendTaken => exact hevent s h.lendTaken (h.refl s) hexec
  | lreqnWithdrawn => exact hevent _ h.lreqWithdrawn (h.setLreq s false) hexec
  | reclaimEnd => exact hevent s h.reclaimEnd (h.refl s) hexec
  | pollTick => exact hevent s h.pollTick (h.refl s) hexec
  | intervalEnd => exact hentry h.intervalEnd hexec
  | resendTimerExpiry => exact hevent s h.resendExpiry (h.refl s) hexec
  | _ => exact hevent s (fun x => h.arrive x ..) (h.refl s) hexec

/-- It holds from a state to the one after its step. -/
theorem step (h : EffectsWithin R) {s t : State} (hstep : step s = .next t) : R s t := by
  unfold Machine.step at hstep
  split at hstep
  · exact h.trans (h.setPending s _) (h.exec hstep)
  · split at hstep
    · exact h.exec hstep
    · cases hstep
      exact h.event h.elapse s

end EffectsWithin

end Sys2Proof.Machine
end

section
/-! PROOFS. The bus state agrees with the turn, lend-pending and the release-gap record (R21 to R23, R32 to R37), and
every effect keeps it so: most do not touch the bus, and what starts or ends a turn leaves it well formed. -/

namespace Sys2Proof.Machine

/-- The law of the bus goes over from `s` to `t`. -/
def State.KeepsBusLaw (s t : State) : Prop := s.BusLaw → t.BusLaw

theorem State.keepsBusLaw_of_eq {s t : State} (h : t.bus = s.bus) : s.KeepsBusLaw t := fun hlaw => by
  rwa [State.BusLaw, h]

/-! ## The operations that write the bus -/

/-- LREQn asserted: IDLE takes the lend, elsewhere lend-pending may be set (R36). -/
theorem State.keepsBusLaw_lreqAsserted (s : State) : s.KeepsBusLaw s.lreqAsserted := by
  intro hlaw
  unfold State.lreqAsserted
  split
  · exact State.takeLend_wellFormed rfl
  case h_4 =>
    split
    · simp_all [State.BusLaw, Bus.wellFormed]
    · exact hlaw
  all_goals simp_all [State.BusLaw, Bus.wellFormed]

/-- LREQn withdrawn: a GAP before a lend ends, LENT goes to RECLAIM, elsewhere lend-pending is clear (R37). -/
theorem State.keepsBusLaw_lreqWithdrawn (s : State) : s.KeepsBusLaw s.lreqWithdrawn := by
  intro hlaw
  unfold State.lreqWithdrawn
  split
  case h_4 => split <;> simp_all [State.BusLaw, Bus.wellFormed]
  all_goals simp_all [State.BusLaw, Bus.wellFormed]

theorem State.keepsBusLaw_lendTaken (s : State) : s.KeepsBusLaw s.lendTaken := by
  intro hlaw
  unfold State.lendTaken
  split
  · rename_i hpending
    have hlend : s.bus.lendPending = true := by
      rw [Bool.and_eq_true] at hpending
      exact hpending.1
    split
    · exact State.takeLend_wellFormed hlend
    · split
      · exact State.takeLend_wellFormed hlend
      · exact hlaw
    all_goals exact hlaw
  · exact hlaw

theorem State.keepsBusLaw_reclaimEnd (s : State) : s.KeepsBusLaw s.reclaimEnd := by
  intro hlaw
  unfold State.reclaimEnd
  split
  · exact s.endTurn_wellFormed
  · exact hlaw

/-- The record's expiry clears it, and the GAP ends in an access, a lend or IDLE (R33). -/
theorem State.keepsBusLaw_gapEnd (s : State) : s.KeepsBusLaw s.gapEnd := by
  intro hlaw
  unfold State.gapEnd
  dsimp only
  split
  · exact hlaw
  · split
    · exact State.startNext_wellFormed _ _
    · exact State.endTurn_wellFormed _
  all_goals simp_all [State.BusLaw, Bus.wellFormed]

theorem State.keepsBusLaw_retryWaitEnd (s : State) : s.KeepsBusLaw s.retryWaitEnd := by
  intro hlaw
  unfold State.retryWaitEnd
  split
  · exact State.startNext_wellFormed _ _
  · exact hlaw

/-- A granted turn starts in its first access or in a GAP (R22, R33). -/
theorem State.keepsBusLaw_grant (s : State) : s.KeepsBusLaw s.grant := by
  intro hlaw
  unfold State.grant
  split
  · split
    · exact hlaw
    · unfold State.grantLink
      split
      · exact State.keepsBusLaw_of_eq (by simp) hlaw
      · exact State.beginTurn_wellFormed _ _
    · unfold State.grantPoll
      split
      · exact hlaw
      · exact State.beginTurn_wellFormed _ _
  · exact hlaw

/-- After an access the turn goes on, waits with its turn held, or ends (R22, R23, R34). -/
theorem State.keepsBusLaw_accessEnd (s : State) (ready : List Bool) (deferred : Bool) (lines : BusData) :
    s.KeepsBusLaw (s.accessEnd ready deferred lines) := by
  intro hlaw
  unfold State.accessEnd
  split
  · rename_i a turn _ hturn
    obtain ⟨-, -, -, -, -, -, hbus, -⟩ := s.deliver_frame a turn (a.profile.outcome ready deferred) lines
    unfold State.continueTurn
    dsimp only
    split
    · exact State.startNext_wellFormed _ _
    · simp [State.BusLaw, Bus.wellFormed, hbus, hturn]
    · exact State.endTurn_wellFormed _
  · exact hlaw

theorem State.keepsBusLaw_abortEntry (s : State) (e : LinkEntry) : s.KeepsBusLaw (s.abortEntry e) := by
  intro hlaw
  unfold State.abortEntry
  split
  · exact State.keepsBusLaw_of_eq (by simp) hlaw
  · exact State.keepsBusLaw_of_eq (by simp) hlaw
  · split
    · exact State.keepsBusLaw_of_eq (by simp) s.endTurn_wellFormed
    · exact hlaw

/-- A RESTART drops the holder of an access and ends any other link turn (R38). -/
theorem State.keepsBusLaw_cutLinkTurn (s : State) : s.KeepsBusLaw s.cutLinkTurn := by
  intro hlaw
  unfold State.cutLinkTurn
  split
  · exact hlaw
  · split
    · split
      · simp_all [State.BusLaw, Bus.wellFormed]
      · exact s.endTurn_wellFormed
    · exact hlaw
    · exact hlaw

/-- A turn in service keeps the bus well formed whoever holds it. -/
theorem Bus.wellFormed_of_holder {b : Bus} {turn turn' : Turn} (hturn : b.turn = some turn)
    (hlaw : b.wellFormed = true) : ({ b with turn := some turn' } : Bus).wellFormed = true := by
  unfold Bus.wellFormed at hlaw ⊢
  rw [hturn] at hlaw
  exact hlaw

/-- A dropped poll request leaves its turn without a holder, or ends it in a GAP (R39, R100). -/
theorem State.keepsBusLaw_dropWatch (s : State) (id : WatchId) : s.KeepsBusLaw (s.dropWatch id) := by
  intro hlaw
  unfold State.dropWatch State.orphanPoll
  split
  · exact hlaw
  · rename_i turn hturn
    split
    · split
      · exact State.endTurn_wellFormed _
      · exact Bus.wellFormed_of_holder hturn hlaw
    · exact hlaw

theorem State.keepsBusLaw_takesEffect (s : State) (w : WinId) : s.KeepsBusLaw (s.takesEffect w) := by
  refine State.keepsBusLaw_of_eq ?_
  unfold State.takesEffect State.applyWindowRequest
  repeat' split
  all_goals simp

theorem State.backoffEnd_bus (s : State) (t : Tag) : (s.backoffEnd t).bus = s.bus := by
  unfold State.backoffEnd
  repeat' split
  all_goals rfl

theorem State.deadlinePasses_bus (s : State) (t : Tag) : (s.deadlinePasses t).bus = s.bus := by
  unfold State.deadlinePasses
  repeat' split
  all_goals simp

theorem State.frameEnd_bus (s : State) : s.frameEnd.bus = s.bus := by
  unfold State.frameEnd
  dsimp only
  repeat' split
  all_goals rfl

/-- A bus period changes no turn and no lend-pending, and no record appears (R32). -/
theorem State.keepsBusLaw_elapse (s : State) : s.KeepsBusLaw s.elapse := by
  intro hlaw
  unfold State.BusLaw at hlaw ⊢
  show s.bus.elapse.wellFormed = true
  unfold Bus.elapse
  split <;> simp_all [Bus.wellFormed, Bus.elapse.countGap]

theorem State.boot_wellFormed (s : State) (cause : ResetCause) (rate : BitVec 2) : (s.boot cause rate).BusLaw := by
  unfold State.boot
  dsimp only
  split
  · exact State.keepsBusLaw_lreqAsserted _ rfl
  · rfl

/-- Every effect keeps the law of the bus. -/
theorem effectsWithin_keepsBusLaw : EffectsWithin State.KeepsBusLaw where
  refl _ := id
  trans h h' hlaw := h' (h hlaw)
  transmit _ := State.keepsBusLaw_of_eq (by simp)
  deferTimer _ := id
  receiver _ _ := id
  hear _ := id
  answer _ _ _ _ _ := id
  countDuplicate _ := id
  list {s t} _ := State.keepsBusLaw_of_eq (by rw [State.list_eq])
  clearTag _ := id
  store _ _ _ := State.keepsBusLaw_of_eq (by simp)
  accept _ _ := id
  setWatch _ := id
  dropWatch := State.keepsBusLaw_dropWatch
  clearCounters _ _ := id
  setTiming _ _ := id
  acknowledge _ _ := id
  abortEntry _ := State.keepsBusLaw_abortEntry _ _
  restarted := State.keepsBusLaw_cutLinkTurn
  grant := State.keepsBusLaw_grant
  accessEnd := State.keepsBusLaw_accessEnd
  gapEnd := State.keepsBusLaw_gapEnd
  retryWaitEnd := State.keepsBusLaw_retryWaitEnd
  backoffEnd s t := State.keepsBusLaw_of_eq (s.backoffEnd_bus t)
  deadlinePasses s t := State.keepsBusLaw_of_eq (s.deadlinePasses_bus t)
  takesEffect := State.keepsBusLaw_takesEffect
  setLreq _ _ := id
  lreqAsserted := State.keepsBusLaw_lreqAsserted
  lreqWithdrawn := State.keepsBusLaw_lreqWithdrawn
  lendTaken := State.keepsBusLaw_lendTaken
  reclaimEnd := State.keepsBusLaw_reclaimEnd
  pollTick _ := id
  intervalEnd _ := id
  resendExpiry _ := id
  frameEnd s := State.keepsBusLaw_of_eq s.frameEnd_bus
  boot s cause rate _ := s.boot_wellFormed cause rate
  initialised _ _ _ _ := rfl
  setPending _ _ := id
  elapse := State.keepsBusLaw_elapse

/-- Settles O59: every effect keeps the law, and so does every step. -/
theorem stepKeepsBusLaw : Obligations.StepKeepsBusLaw :=
  fun _ _ hlaw hstep => effectsWithin_keepsBusLaw.step hstep hlaw

end Sys2Proof.Machine
end

section
/-! PROOFS. The queue, the tag table and the reply lists agree (R43, R143, R152, R153), and every effect keeps them so:
an entry joins the queue with its tag PENDING and leaves it with its tag DONE. -/

namespace Sys2Proof.Machine

/-- The law of the queue goes over from `s` to `t`. -/
def State.KeepsQueueLaw (s t : State) : Prop := s.QueueLaw → t.QueueLaw

/-- The law reads the queue and the tracker. -/
theorem State.keepsQueueLaw_of_eq {s t : State} (hqueue : t.queue = s.queue) (htracker : t.tracker = s.tracker) :
    s.KeepsQueueLaw t := by
  intro hlaw
  simpa only [State.QueueLaw, State.tagOf, State.entryOf, hqueue, htracker] using hlaw

/-! ## Tags that become DONE -/

/-- The law of the queue but for one tag, which has no entry in the queue and may hold anything in the tag table. -/
structure State.QueueLawBut (s : State) (t : Tag) : Prop where
  room : s.queue.length ≤ Config.queueCapacity
  nodup : (s.queue.map LinkEntry.tag).Nodup
  absent : s.entryOf t = none
  agree : ∀ u : Tag, u ≠ t → (s.tagOf u).pendingPhase = (s.entryOf u).map LinkEntry.phase
  listedOnce : s.tracker.outgoing.Nodup
  listedDone : ∀ u ∈ s.tracker.outgoing, u ≠ t → (s.tagOf u).isDone = true
  immediate : s.tracker.immediate.length ≤ Config.immediateCapacity

theorem State.QueueLaw.but {s : State} (h : s.QueueLaw) {t : Tag} (habsent : s.entryOf t = none) : s.QueueLawBut t := by
  obtain ⟨hroom, hnodup, hagree, hlisted, hdone, himmediate⟩ := h
  exact ⟨hroom, hnodup, habsent, fun u _ => hagree u, hlisted, fun u hu _ => hdone u hu, himmediate⟩

/-- A tag that is not PENDING has no entry (R43). -/
theorem State.QueueLaw.absent {s : State} (h : s.QueueLaw) {t : Tag} (ht : (s.tagOf t).pendingPhase = none) :
    s.entryOf t = none := by
  obtain ⟨-, -, hagree, -⟩ := h
  have := (hagree t).symm.trans ht
  simpa using this

theorem State.QueueLaw.nodup {s : State} (h : s.QueueLaw) : (s.queue.map LinkEntry.tag).Nodup := by
  obtain ⟨-, hnodup, -⟩ := h
  exact hnodup

theorem TagEntry.pendingPhase_of_isDone {x : TagEntry} (h : x.isDone = true) : x.pendingPhase = none := by
  cases x with
  | done phase r => rfl
  | empty => rfl
  | pending phase => cases h

/-- A tag is listed at most once (R153). -/
theorem State.list_outgoing (s : State) (t : Tag) :
    (s.list t).tracker.outgoing = if t ∈ s.tracker.outgoing then s.tracker.outgoing else s.tracker.outgoing ++ [t] := by
  unfold State.list
  split <;> rfl

theorem State.list_outgoing_nodup {s : State} (h : s.tracker.outgoing.Nodup) (t : Tag) :
    (s.list t).tracker.outgoing.Nodup := by
  rw [State.list_outgoing]
  split
  · exact h
  · rename_i hnot
    rw [List.nodup_append]
    refine ⟨h, List.nodup_singleton t, fun a ha b hb hab => ?_⟩
    rw [List.mem_singleton.mp hb] at hab
    exact hnot (hab ▸ ha)

theorem State.mem_list_outgoing {s : State} {t u : Tag} (h : u ∈ (s.list t).tracker.outgoing) :
    u = t ∨ u ∈ s.tracker.outgoing := by
  rw [State.list_outgoing] at h
  split at h
  · exact .inr h
  · rcases List.mem_append.mp h with h | h
    · exact .inr h
    · exact .inl (List.mem_singleton.mp h)

/-- A tag without an entry becomes DONE, and is listed (R147, R149, R150). -/
theorem State.QueueLawBut.store {s : State} {t : Tag} (h : s.QueueLawBut t) (phase : Bool) (r : Reply) :
    (s.store t phase r).QueueLaw := by
  have hentry : ∀ u, (s.store t phase r).entryOf u = s.entryOf u := fun u => State.entryOf_congr (by simp) u
  refine ⟨by simpa using h.room, by simpa using h.nodup, fun u => ?_,
    State.list_outgoing_nodup (s := s.setTag t _) h.listedOnce t, fun u hu => ?_, ?_⟩
  · rw [State.store_tagOf, hentry]
    split
    · subst u
      rw [h.absent]
      rfl
    · exact h.agree u (Ne.symm ‹_›)
  · rw [State.store_tagOf]
    split
    · rfl
    · rename_i hne
      exact h.listedDone u ((State.mem_list_outgoing hu).resolve_left (Ne.symm hne)) (Ne.symm hne)
  · simpa [State.store] using h.immediate

/-- An entry that leaves the queue leaves the law whole but for its tag. -/
theorem State.QueueLaw.unqueue {s : State} (h : s.QueueLaw) (t : Tag) : (s.unqueue t).QueueLawBut t := by
  obtain ⟨hroom, hnodup, hagree, hlisted, hdone, himmediate⟩ := h
  refine ⟨le_trans (List.length_filter_le _ _) hroom, hnodup.sublist (List.filter_sublist.map _), ?_, fun u hu => ?_,
    hlisted, fun u hu _ => hdone u hu, himmediate⟩
  · simp [State.entryOf, State.unqueue]
  · have hother : (s.unqueue t).entryOf u = s.entryOf u := by
      simp only [State.entryOf, State.unqueue, List.find?_filter]
      congr 1
      funext x
      by_cases hx : x.tag = u <;> simp [hx, hu]
    rw [hother]
    exact hagree u

/-- A completion keeps the law (R65). -/
theorem State.keepsQueueLaw_complete (s : State) (e : LinkEntry) (status : Status) :
    s.KeepsQueueLaw (s.complete e status) := fun hlaw => (hlaw.unqueue e.tag).store _ _

theorem State.keepsQueueLaw_completeAll (s : State) (es : List LinkEntry) (status : Status) :
    s.KeepsQueueLaw (s.completeAll es status) := by
  unfold State.completeAll
  induction es generalizing s with
  | nil => exact id
  | cons e es ih => exact fun hlaw => ih _ (s.keepsQueueLaw_complete e status hlaw)

/-! ## Entries that join the queue or go on in it -/

/-- An acceptance under an EMPTY tag (R44, R149). -/
theorem State.keepsQueueLaw_accept {s : State} {t : Tag} {tagByte : Byte} {w : WinId} {r : LinkRequest}
    (hempty : s.tagOf t = .empty) (hadmits : s.admits tagByte w r) : s.KeepsQueueLaw (s.accept t tagByte w r) := by
  intro hlaw
  have habsent : s.entryOf t = none := hlaw.absent (by rw [hempty]; rfl)
  obtain ⟨-, hnodup, hagree, hlisted, hdone, himmediate⟩ := hlaw
  have hnone : ∀ e ∈ s.queue, e.tag ≠ t := fun e he => by simpa using List.find?_eq_none.mp habsent e he
  have htag : ∀ u, (s.accept t tagByte w r).tagOf u = if t = u then .pending (phaseOf tagByte) else s.tagOf u :=
    fun u => State.tagOf_setTag _ t u _
  have hentry : ∀ u, (s.accept t tagByte w r).entryOf u =
      (s.entryOf u).or (if t = u then some (s.newEntry t tagByte w r) else none) := by
    intro u
    show (s.queue ++ [s.newEntry t tagByte w r]).find? (fun x => x.tag = u) = _
    rw [List.find?_append]
    by_cases hu : t = u <;> simp [State.entryOf, State.newEntry, hu]
  refine ⟨?_, ?_, fun u => ?_, hlisted, fun u hu => ?_, himmediate⟩
  · show (s.queue ++ [s.newEntry t tagByte w r]).length ≤ Config.queueCapacity
    have hroom := hadmits.1
    simp only [State.queueFull, decide_eq_false_iff_not] at hroom
    rw [List.length_append, List.length_singleton]
    omega
  · show ((s.queue ++ [s.newEntry t tagByte w r]).map LinkEntry.tag).Nodup
    rw [List.map_append, List.nodup_append]
    refine ⟨hnodup, List.nodup_singleton _, fun a ha b hb hab => ?_⟩
    obtain ⟨e, he, rfl⟩ := List.mem_map.mp ha
    rw [List.mem_singleton.mp hb] at hab
    exact hnone e he hab
  · rw [htag, hentry]
    by_cases hu : t = u
    · subst hu
      rw [if_pos rfl, if_pos rfl, habsent]
      rfl
    · rw [if_neg hu, if_neg hu, Option.or_none]
      exact hagree u
  · rw [htag, if_neg]
    · exact hdone u hu
    · rintro rfl
      have hisDone := hdone t hu
      rw [hempty] at hisDone
      cases hisDone

/-- An entry in the place of the queued entry of its tag: what is queued under each tag (R43). -/
theorem State.updateEntry_entryOf_eq (s : State) (e : LinkEntry) (u : Tag) :
    (s.updateEntry e).entryOf u = (s.entryOf u).map fun x => if x.tag = e.tag then e else x := by
  simp only [State.entryOf, State.updateEntry, List.find?_map]
  congr 2
  funext x
  simp only [Function.comp_apply]
  split <;> simp_all

theorem State.updateEntry_tags (s : State) (e : LinkEntry) :
    (s.updateEntry e).queue.map LinkEntry.tag = s.queue.map LinkEntry.tag := by
  simp only [State.updateEntry, List.map_map]
  refine List.map_congr_left fun x _ => ?_
  simp only [Function.comp_apply]
  split <;> simp_all

/-- New progress of an entry under its phase keeps the law. -/
theorem State.keepsQueueLaw_updateEntry {s : State} {e e' : LinkEntry} (he : s.entryOf e'.tag = some e)
    (hphase : e'.phase = e.phase) : s.KeepsQueueLaw (s.updateEntry e') := by
  rintro ⟨hroom, hnodup, hagree, hlisted, hdone, himmediate⟩
  refine ⟨?_, by rwa [State.updateEntry_tags], fun u => ?_, hlisted, hdone, himmediate⟩
  · simpa [State.updateEntry] using hroom
  · rw [State.updateEntry_entryOf_eq]
    refine (hagree u).trans ?_
    cases hu : s.entryOf u with
    | none => rfl
    | some x =>
      simp only [Option.map_some, Option.some.injEq]
      split
      · rename_i htag
        have hx : u = e'.tag := by rw [← State.entryOf_tag hu, htag]
        subst hx
        obtain rfl : e = x := by simpa using he.symm.trans hu
        exact hphase.symm
      · rfl

/-! ## What a link entry makes of an outcome (R53 to R57) -/

/-- The same request, whatever its progress: what an entry keeps while it is queued (R43). -/
structure LinkEntry.SameRequest (e' e : LinkEntry) : Prop where
  tag : e'.tag = e.tag
  phase : e'.phase = e.phase
  force : e'.force = e.force
  window : e'.window = e.window
  request : e'.request = e.request

/-- A bus request has work at every index below its number of units or steps. -/
theorem LinkRequest.workAt_isSome {r : LinkRequest} {i : Nat} (h : i < r.size) : (r.workAt i).isSome = true := by
  cases r <;> simp [LinkRequest.workAt, LinkRequest.size] at h ⊢ <;> exact h

/-- What a link entry `e` makes of an outcome: it completes and its turn stops; or it goes on with work left, after OK;
or it waits with the bus held, or is DEFERRED and its turn stops, after a deferral that exhausts nothing. -/
inductive LinkTaken (s : State) (e : LinkEntry) (t : Turn) : Outcome → TurnResult → Prop where
  | completes {e' : LinkEntry} (same : e'.SameRequest e) (status : Status) (exhausted : Bool) (o : Outcome) :
    LinkTaken s e t o (s.stopWith e' status exhausted)
  | goesOn {e' : LinkEntry} (same : e'.SameRequest e) (state : e'.state = e.state)
    (work : (e'.request.workAt e'.done).isSome = true) :
    LinkTaken s e t .ok { state := s.updateEntry e', next := .goOn t, exhausted := false, notices := [] }
  | waits {e' : LinkEntry} (same : e'.SameRequest e) (state : e'.state = e.state) (done : e'.done = e.done) :
    LinkTaken s e t .defer { state := s.updateEntry e', next := .wait, exhausted := false, notices := [] }
  | defers {e' : LinkEntry} (same : e'.SameRequest e) (state : e'.state = .deferred) (done : e'.done = e.done) :
    LinkTaken s e t .defer { state := s.updateEntry e', next := .stop, exhausted := false, notices := [] }

theorem State.unitDone_taken (s : State) (e : LinkEntry) (t : Turn) (st : SeqStep) (held : Value) :
    LinkTaken s e t .ok (s.unitDone e t st held) := by
  unfold State.unitDone
  dsimp only
  split
  · exact .completes (by constructor <;> rfl) ..
  · split
    · exact .completes (by constructor <;> rfl) ..
    · split
      · exact .completes (by constructor <;> rfl) ..
      · rename_i hmore _
        exact .goesOn (by constructor <;> rfl) rfl (LinkRequest.workAt_isSome (Nat.lt_of_not_le hmore))

theorem State.deferral_taken (s : State) (e : LinkEntry) (t : Turn) : LinkTaken s e t .defer (s.deferral e) := by
  unfold State.deferral
  dsimp only
  split
  · exact .completes (by constructor <;> rfl) ..
  · split
    · exact .waits (by constructor <;> rfl) rfl rfl
    · split
      · exact .completes (by constructor <;> rfl) ..
      · split
        · exact .completes (by constructor <;> rfl) ..
        · exact .defers (by constructor <;> rfl) rfl rfl

theorem State.linkTakes_taken (s : State) (e : LinkEntry) (t : Turn) (o : Outcome) (lines : BusData) :
    LinkTaken s e t o (s.linkTakes e t o lines) := by
  unfold State.linkTakes
  split
  · exact .completes (by constructor <;> rfl) ..
  · exact s.deferral_taken e t
  · split
    · exact .completes (by constructor <;> rfl) ..
    · rename_i st hwork
      dsimp only
      split
      · exact .goesOn (by constructor <;> rfl) rfl (by rw [hwork]; rfl)
      · exact s.unitDone_taken e t st _

theorem State.keepsQueueLaw_linkTakes {s : State} {e : LinkEntry} (he : s.entryOf e.tag = some e) (t : Turn)
    (o : Outcome) (lines : BusData) : s.KeepsQueueLaw (s.linkTakes e t o lines).state := by
  have htaken := s.linkTakes_taken e t o lines
  generalize s.linkTakes e t o lines = r at htaken
  cases htaken with
  | completes => exact s.keepsQueueLaw_complete _ _
  | goesOn same => exact State.keepsQueueLaw_updateEntry (by rw [same.tag, he]) same.phase
  | waits same => exact State.keepsQueueLaw_updateEntry (by rw [same.tag, he]) same.phase
  | defers same => exact State.keepsQueueLaw_updateEntry (by rw [same.tag, he]) same.phase

/-- A poll takes an outcome without the queue or the tracker (R106). -/
theorem State.pollTakes_queue (s : State) (id : WatchId) (x : WatchEntry) (t : Turn) (o : Outcome) (lines : BusData) :
    (s.pollTakes id x t o lines).state.queue = s.queue ∧ (s.pollTakes id x t o lines).state.tracker = s.tracker := by
  unfold State.pollTakes State.pollEnds
  dsimp only
  repeat' split
  all_goals exact ⟨rfl, rfl⟩

theorem State.keepsQueueLaw_holderTakes (s : State) (t : Turn) (o : Outcome) (lines : BusData) :
    s.KeepsQueueLaw (s.holderTakes t o lines).state := by
  unfold State.holderTakes
  split
  · split
    · exact id
    · rename_i e he
      exact State.keepsQueueLaw_linkTakes (by rw [State.entryOf_tag he, he]) t o lines
  · split
    · exact id
    · obtain ⟨hqueue, htracker⟩ := s.pollTakes_queue _ ‹WatchEntry› t o lines
      exact State.keepsQueueLaw_of_eq hqueue htracker
  · exact id

/-! ## Access ends and the other effects -/

/-- A health input completes what its flush takes, or nothing (R64, R87). -/
theorem State.keepsQueueLaw_judge (s : State) (w : WinId) (input : HealthInput) :
    s.KeepsQueueLaw (s.judge w input).1 := by
  unfold State.judge
  dsimp only
  split
  · exact id
  · exact fun hlaw => State.keepsQueueLaw_completeAll _ _ _ (State.keepsQueueLaw_of_eq rfl rfl hlaw)
  · exact id

theorem State.keepsQueueLaw_accessEnd (s : State) (ready : List Bool) (deferred : Bool) (lines : BusData) :
    s.KeepsQueueLaw (s.accessEnd ready deferred lines) := by
  intro hlaw
  unfold State.accessEnd
  split
  · rename_i a turn _ _
    obtain ⟨x, hqueue, htracker, hxqueue, hxtracker, -⟩ :=
      s.deliver_queue a turn (a.profile.outcome ready deferred) lines
    dsimp only
    rw [State.continueTurn_eq]
    refine State.keepsQueueLaw_of_eq hqueue htracker ?_
    refine State.keepsQueueLaw_judge _ _ _ (State.keepsQueueLaw_of_eq hxqueue hxtracker ?_)
    exact State.keepsQueueLaw_holderTakes _ _ _ _ (State.keepsQueueLaw_of_eq rfl rfl hlaw)
  · exact hlaw

theorem State.linkCandidate_of_choose {s : State} {e : LinkEntry} (h : s.choose = some (.link e)) :
    s.linkCandidate = some e := by
  unfold State.choose at h
  split at h
  · cases h
  · simp_all
  · cases h
  · split at h <;> simp_all

/-- With one entry for each tag, a queued entry is the one of its tag (R43). -/
theorem State.entryOf_of_nodup {s : State} (hnodup : (s.queue.map LinkEntry.tag).Nodup) {e : LinkEntry}
    (he : e ∈ s.queue) : s.entryOf e.tag = some e := by
  obtain ⟨y, hy⟩ := State.entryOf_of_mem he
  obtain ⟨htag, hmem⟩ := State.entryOf_some hy
  rw [hy, List.inj_on_of_nodup_map hnodup hmem he htag]

theorem State.keepsQueueLaw_grant (s : State) : s.KeepsQueueLaw s.grant := by
  intro hlaw
  unfold State.grant
  split
  · split
    · exact hlaw
    · rename_i e hchoose
      unfold State.grantLink
      split
      · exact s.keepsQueueLaw_complete e _ hlaw
      · have hmem := List.mem_of_find?_eq_some (State.linkCandidate_of_choose hchoose)
        have hgranted : (s.updateEntry { e with state := .active, retryTime := none }).QueueLaw :=
          State.keepsQueueLaw_updateEntry (e := e) (State.entryOf_of_nodup hlaw.nodup hmem) rfl hlaw
        exact State.keepsQueueLaw_of_eq (by simp) (by simp) hgranted
    · unfold State.grantPoll
      split
      · exact hlaw
      · exact State.keepsQueueLaw_of_eq (by simp) (by simp) hlaw
  · exact hlaw

theorem State.keepsQueueLaw_takesEffect (s : State) (w : WinId) : s.KeepsQueueLaw (s.takesEffect w) := by
  intro hlaw
  unfold State.takesEffect
  split
  · exact hlaw
  · unfold State.applyWindowRequest
    split
    · exact State.keepsQueueLaw_complete _ _ _ hlaw
    · exact State.keepsQueueLaw_complete _ _ _ (State.keepsQueueLaw_of_eq rfl rfl hlaw)

theorem State.keepsQueueLaw_abortEntry {s : State} {e : LinkEntry} (he : s.entryOf e.tag = some e) :
    s.KeepsQueueLaw (s.abortEntry e) := by
  intro hlaw
  unfold State.abortEntry
  split
  · exact State.keepsQueueLaw_complete _ _ _ hlaw
  · exact State.keepsQueueLaw_complete _ _ _ hlaw
  · split
    · exact State.keepsQueueLaw_complete _ _ _ (State.keepsQueueLaw_of_eq (by simp) (by simp) hlaw)
    · exact State.keepsQueueLaw_updateEntry (e := e) he rfl hlaw

theorem State.keepsQueueLaw_backoffEnd (s : State) (t : Tag) : s.KeepsQueueLaw (s.backoffEnd t) := by
  unfold State.backoffEnd
  split
  · exact id
  · rename_i e he
    split
    · exact State.keepsQueueLaw_updateEntry (e := e) (by rw [← he, State.entryOf_tag he]) rfl
    · exact id

theorem State.keepsQueueLaw_deadlinePasses (s : State) (t : Tag) : s.KeepsQueueLaw (s.deadlinePasses t) := by
  unfold State.deadlinePasses
  split
  · exact id
  · rename_i e he
    split
    · exact id
    · split
      · exact s.keepsQueueLaw_complete e _
      · exact s.keepsQueueLaw_complete e _
      · exact State.keepsQueueLaw_updateEntry (e := e) (by rw [← he, State.entryOf_tag he]) rfl

/-- An empty queue with every tag EMPTY and nothing listed (R143, R156). -/
theorem State.queueLaw_of_reset {t : State} (hqueue : t.queue = []) (htracker : t.tracker = .reset) : t.QueueLaw :=
  State.keepsQueueLaw_of_eq (s := State.reset) hqueue htracker State.reset_queueLaw

/-- A choice of the transmitter takes from the lists (R152, R153, R169). -/
theorem State.keepsQueueLaw_transmit (s : State) : s.KeepsQueueLaw s.transmit := by
  rintro ⟨hroom, hnodup, hagree, hlisted, hdone, himmediate⟩
  refine s.transmit_cases (P := State.QueueLaw) ⟨hroom, hnodup, hagree, hlisted, hdone, himmediate⟩
    (fun r rest _ himm => ⟨hroom, hnodup, hagree, hlisted, hdone, ?_⟩)
    (fun r _ _ _ => ⟨hroom, hnodup, hagree, hlisted.sublist (List.tail_sublist _),
      fun u hu => hdone u (List.mem_of_mem_tail hu), himmediate⟩)
    (fun n _ _ _ => ⟨hroom, hnodup, hagree, hlisted, hdone, himmediate⟩)
  rw [himm] at himmediate
  exact le_trans (Nat.le_succ _) himmediate

/-- An answer joins the immediate reply list while it has room (R152). -/
theorem State.keepsQueueLaw_answer (s : State) (kind tagByte : Byte) (status : Status) (contents : List Byte) :
    s.KeepsQueueLaw (s.answer kind tagByte status contents) := by
  rintro ⟨hroom, hnodup, hagree, hlisted, hdone, himmediate⟩
  unfold State.answer State.pushImmediate
  split
  · refine ⟨hroom, hnodup, hagree, hlisted, hdone, ?_⟩
    rw [List.length_append, List.length_singleton]
    omega
  · exact ⟨hroom, hnodup, hagree, hlisted, hdone, himmediate⟩

/-- A DONE tag is listed again (R145). -/
theorem State.keepsQueueLaw_list {s : State} {t : Tag} (ht : (s.tagOf t).isDone = true) :
    s.KeepsQueueLaw (s.list t) := by
  rintro ⟨hroom, hnodup, hagree, hlisted, hdone, himmediate⟩
  have hqueue : (s.list t).queue = s.queue := by rw [State.list_eq]
  refine ⟨by rwa [hqueue], by rwa [hqueue], fun u => ?_, State.list_outgoing_nodup hlisted t, fun u hu => ?_, ?_⟩
  · rw [State.list_tagOf, State.entryOf_congr hqueue]
    exact hagree u
  · rw [State.list_tagOf]
    rcases State.mem_list_outgoing hu with rfl | hu
    · exact ht
    · exact hdone u hu
  · rwa [State.list_immediate]

/-- A DONE tag is cleared and leaves the list (R145). -/
theorem State.keepsQueueLaw_clearTag {s : State} {t : Tag} (ht : (s.tagOf t).isDone = true) :
    s.KeepsQueueLaw (s.clearTag t) := by
  intro hlaw
  have habsent := hlaw.absent (TagEntry.pendingPhase_of_isDone ht)
  obtain ⟨hroom, hnodup, hagree, hlisted, hdone, himmediate⟩ := hlaw
  have htag : ∀ u, (s.clearTag t).tagOf u = if t = u then .empty else s.tagOf u := fun u => State.tagOf_setTag s t u _
  refine ⟨hroom, hnodup, fun u => ?_, hlisted.filter _, fun u hu => ?_, himmediate⟩
  · rw [htag]
    split
    · subst u
      show _ = (s.entryOf t).map LinkEntry.phase
      rw [habsent]
      rfl
    · exact hagree u
  · obtain ⟨hu, hne⟩ := List.mem_filter.mp hu
    rw [htag, if_neg (Ne.symm (by simpa using hne))]
    exact hdone u hu

theorem State.frameEnd_queue (s : State) : s.frameEnd.queue = s.queue ∧ s.frameEnd.tracker = s.tracker := by
  unfold State.frameEnd
  dsimp only
  repeat' split
  all_goals exact ⟨rfl, rfl⟩

/-! ## The bus by itself (R33 to R37): each event writes the bus only -/

theorem State.gapEnd_eq (s : State) : s.gapEnd = { s with bus := s.gapEnd.bus } := by
  unfold State.gapEnd
  split
  · rfl
  · split
    · exact State.startNext_eq _ _
    · exact State.endTurn_eq _
  all_goals rfl

theorem State.retryWaitEnd_eq (s : State) : s.retryWaitEnd = { s with bus := s.retryWaitEnd.bus } := by
  unfold State.retryWaitEnd
  split
  · exact s.startNext_eq _
  · rfl

theorem State.lreqAsserted_eq (s : State) : s.lreqAsserted = { s with bus := s.lreqAsserted.bus } := by
  unfold State.lreqAsserted
  split
  · exact State.takeLend_eq _
  case h_4 => split <;> rfl
  all_goals rfl

theorem State.lreqWithdrawn_eq (s : State) : s.lreqWithdrawn = { s with bus := s.lreqWithdrawn.bus } := by
  unfold State.lreqWithdrawn
  repeat' split
  all_goals rfl

theorem State.lendTaken_eq (s : State) : s.lendTaken = { s with bus := s.lendTaken.bus } := by
  unfold State.lendTaken
  split
  · split
    · exact State.takeLend_eq _
    · split
      · exact State.takeLend_eq _
      · rfl
    all_goals rfl
  · rfl

theorem State.reclaimEnd_eq (s : State) : s.reclaimEnd = { s with bus := s.reclaimEnd.bus } := by
  unfold State.reclaimEnd
  split
  · exact s.endTurn_eq
  · rfl

theorem State.keepsQueueLaw_of_bus {s t : State} (h : t = { s with bus := t.bus }) : s.KeepsQueueLaw t :=
  State.keepsQueueLaw_of_eq (by rw [h]) (by rw [h])

theorem State.boot_queueLaw (s : State) (cause : ResetCause) (rate : BitVec 2) : (s.boot cause rate).QueueLaw := by
  unfold State.boot
  dsimp only
  split
  · exact State.keepsQueueLaw_of_bus (State.lreqAsserted_eq _) (State.queueLaw_of_reset rfl rfl)
  · exact State.queueLaw_of_reset rfl rfl

/-- Every effect keeps the law of the queue. -/
theorem effectsWithin_keepsQueueLaw : EffectsWithin State.KeepsQueueLaw where
  refl _ := id
  trans h h' hlaw := h' (h hlaw)
  transmit := State.keepsQueueLaw_transmit
  deferTimer _ := id
  receiver _ _ := id
  hear _ := id
  answer := State.keepsQueueLaw_answer
  countDuplicate _ := id
  list := State.keepsQueueLaw_list
  clearTag := State.keepsQueueLaw_clearTag
  store _ _ hempty hlaw := (hlaw.but (hlaw.absent (by rw [hempty]; rfl))).store _ _
  accept := State.keepsQueueLaw_accept
  setWatch _ := id
  dropWatch _ _ := State.keepsQueueLaw_of_eq (by simp [State.dropWatch]) (by simp [State.dropWatch])
  clearCounters _ _ := id
  setTiming _ _ := id
  acknowledge _ _ := id
  abortEntry := State.keepsQueueLaw_abortEntry
  restarted _ _ := State.queueLaw_of_reset rfl rfl
  grant := State.keepsQueueLaw_grant
  accessEnd := State.keepsQueueLaw_accessEnd
  gapEnd s := State.keepsQueueLaw_of_bus s.gapEnd_eq
  retryWaitEnd s := State.keepsQueueLaw_of_bus s.retryWaitEnd_eq
  backoffEnd := State.keepsQueueLaw_backoffEnd
  deadlinePasses := State.keepsQueueLaw_deadlinePasses
  takesEffect := State.keepsQueueLaw_takesEffect
  setLreq _ _ := id
  lreqAsserted s := State.keepsQueueLaw_of_bus s.lreqAsserted_eq
  lreqWithdrawn s := State.keepsQueueLaw_of_bus s.lreqWithdrawn_eq
  lendTaken s := State.keepsQueueLaw_of_bus s.lendTaken_eq
  reclaimEnd s := State.keepsQueueLaw_of_bus s.reclaimEnd_eq
  pollTick _ := id
  intervalEnd _ := id
  resendExpiry _ := id
  frameEnd s := State.keepsQueueLaw_of_eq s.frameEnd_queue.1 s.frameEnd_queue.2
  boot s cause rate _ := s.boot_queueLaw cause rate
  initialised _ _ _ _ := State.queueLaw_of_reset rfl rfl
  setPending _ _ := id
  elapse _ := id

end Sys2Proof.Machine
end

section
/-! PROOFS. The turn in service and the queue agree (R22, R43), an entry that has begun is the oldest of its window
(R46, R47), and a FAILED window has no bus request without FORCE (R64): every effect keeps these laws. -/

namespace Sys2Proof.Machine

/-! ## The law of service in two parts: the entries, and the turn -/

/-- The queue by itself: bus requests have work left, what has begun is the oldest bus request of its window, and a
FAILED window has no bus request without FORCE (R43, R46, R47, R64). -/
structure State.EntryLaw (s : State) : Prop where
  work : ∀ e ∈ s.queue, e.request.isBus = true → (e.request.workAt e.done).isSome = true
  begun : ∀ e ∈ s.queue, e.state ≠ .waiting →
    e.request.isBus = true ∧ (s.oldestOn e.window).map LinkEntry.tag = some e.tag
  healthy : ∀ e ∈ s.queue, e.request.isBus = true → e.force = false → (s.window e.window).health.state ≠ .failed

/-- No entry is ACTIVE: no link turn is in service (R43). -/
def State.NoneActive (s : State) : Prop := ∀ e ∈ s.queue, e.state ≠ .active

/-- The turn may be in service: an ACTIVE entry is its link holder, and its link holder is an ACTIVE bus request bound
to its window (R22, R43). -/
structure State.Serves (s : State) (turn : Turn) : Prop where
  active : ∀ e ∈ s.queue, e.state = .active → turn.holder = .link e.tag
  entry : ∀ tag : Tag, turn.holder = .link tag →
    ∃ e, s.entryOf tag = some e ∧ e.state = .active ∧ e.request.isBus = true ∧ e.window = turn.window

/-- The bus serves the queue: without a turn no entry is ACTIVE, and an access is one of the turn's window (R22,
R24). -/
structure State.TurnLaw (s : State) : Prop where
  none : s.bus.turn = none → s.NoneActive
  serves : ∀ turn, s.bus.turn = some turn → s.Serves turn
  access : ∀ a turn, s.bus.state = .access a → s.bus.turn = some turn → a.window = turn.window

/-- With one entry for each tag, the law of service is its two parts. -/
theorem State.serviceLaw_iff {s : State} (hnodup : (s.queue.map LinkEntry.tag).Nodup) :
    s.ServiceLaw ↔ s.EntryLaw ∧ s.TurnLaw := by
  constructor
  · rintro ⟨hactive, hholder, haccess, hwork, hbegun, hhealthy⟩
    refine ⟨⟨hwork, hbegun, hhealthy⟩, fun hturn e he hstate => ?_, fun turn hturn => ⟨fun e he hstate => ?_,
      fun tag htag => ?_⟩, fun a turn hstate hturn => haccess a hstate turn hturn⟩
    · have := hactive e he hstate
      rw [hturn] at this
      cases this
    · simpa [hturn] using hactive e he hstate
    · obtain ⟨e, he, rfl, hstate, hbus, hwindow⟩ := hholder turn hturn tag htag
      exact ⟨e, State.entryOf_of_nodup hnodup he, hstate, hbus, hwindow⟩
  · rintro ⟨⟨hwork, hbegun, hhealthy⟩, hnone, hserves, haccess⟩
    refine ⟨fun e he hstate => ?_, fun turn hturn tag htag => ?_, fun a hstate turn hturn =>
      haccess a turn hstate hturn, hwork, hbegun, hhealthy⟩
    · cases hturn : s.bus.turn with
      | none => exact absurd hstate (hnone hturn e he)
      | some turn => rw [Option.map_some, (hserves turn hturn).active e he hstate]
    · obtain ⟨e, he, hstate, hbus, hwindow⟩ := (hserves turn hturn).entry tag htag
      obtain ⟨htag, hmem⟩ := State.entryOf_some he
      exact ⟨e, hmem, htag, hstate, hbus, hwindow⟩

/-! ## The entries -/

theorem State.EntryLaw.congr {s t : State} (h : s.EntryLaw) (hqueue : t.queue = s.queue)
    (hhealth : ∀ w, (t.window w).health.state = .failed → (s.window w).health.state = .failed) : t.EntryLaw := by
  have holdest : ∀ w, t.oldestOn w = s.oldestOn w := fun w => by simp only [State.oldestOn, hqueue]
  refine ⟨?_, ?_, ?_⟩ <;> rw [hqueue]
  · exact h.work
  · simpa only [holdest] using h.begun
  · exact fun e he hbus hforce hfailed => h.healthy e he hbus hforce (hhealth _ hfailed)

theorem State.EntryLaw.of_windows {s t : State} (h : s.EntryLaw) (hqueue : t.queue = s.queue)
    (hwindows : t.windows = s.windows) : t.EntryLaw :=
  h.congr hqueue fun w => by rw [State.window_congr hwindows]; exact id

/-- What is found first is found first among those that stay, if it stays. -/
theorem find?_filter_of_stays {α : Type} {l : List α} {p q : α → Bool} {x : α} (h : l.find? p = some x)
    (hx : q x = true) : (l.filter q).find? p = some x := by
  obtain ⟨hp, before, after, rfl, hbefore⟩ := List.find?_eq_some_iff_append.mp h
  rw [List.filter_append, List.filter_cons_of_pos hx]
  exact List.find?_eq_some_iff_append.mpr
    ⟨hp, _, _, rfl, fun y hy => hbefore y (List.mem_of_mem_filter hy)⟩

/-- Entries leave the queue: those that stay are begun as before (R46). -/
theorem State.EntryLaw.filter {s t : State} (h : s.EntryLaw) (hnodup : (s.queue.map LinkEntry.tag).Nodup)
    {p : LinkEntry → Bool} (hqueue : t.queue = s.queue.filter p)
    (hhealthy : ∀ e ∈ t.queue, e.request.isBus = true → e.force = false →
      (t.window e.window).health.state ≠ .failed) : t.EntryLaw := by
  refine ⟨fun e he => ?_, fun e he hstate => ?_, hhealthy⟩ <;> rw [hqueue] at he
  · exact h.work e (List.mem_of_mem_filter he)
  · obtain ⟨hmem, hstays⟩ := List.mem_filter.mp he
    obtain ⟨hbus, holdest⟩ := h.begun e hmem hstate
    refine ⟨hbus, ?_⟩
    obtain ⟨x, hx, htag⟩ := Option.map_eq_some_iff.mp holdest
    obtain rfl : x = e := List.inj_on_of_nodup_map hnodup (State.mem_of_oldestOn hx).1 hmem htag
    rw [State.oldestOn, hqueue, find?_filter_of_stays hx hstays]
    rfl

/-- A completion lets an entry leave. -/
theorem State.EntryLaw.complete {s : State} (h : s.EntryLaw) (hnodup : (s.queue.map LinkEntry.tag).Nodup)
    (e : LinkEntry) (status : Status) : (s.complete e status).EntryLaw :=
  h.filter hnodup (State.complete_queue ..) fun x hx => by
    rw [State.window_congr (State.complete_windows ..)]
    rw [State.complete_queue] at hx
    exact h.healthy x (List.mem_of_mem_filter hx)

/-- Two entries of one tag are one entry, bound to one window. -/
theorem State.updateEntry_oldestOn {s : State} (hnodup : (s.queue.map LinkEntry.tag).Nodup) {e e' : LinkEntry}
    (he : s.entryOf e'.tag = some e) (hwindow : e'.window = e.window) (w : WinId) :
    ((s.updateEntry e').oldestOn w).map LinkEntry.tag = (s.oldestOn w).map LinkEntry.tag := by
  obtain ⟨htag, hmem⟩ := State.entryOf_some he
  have hsame : ∀ x ∈ s.queue, x.tag = e'.tag → x.window = e'.window := fun x hx hxtag => by
    rw [List.inj_on_of_nodup_map hnodup hx hmem (hxtag.trans htag.symm), hwindow]
  have hfind : s.queue.find? (fun x => decide ((if x.tag = e'.tag then e' else x).window = w)) =
      s.queue.find? (fun x => decide (x.window = w)) := by
    refine List.find?_congr fun x hx => ?_
    by_cases hxtag : x.tag = e'.tag
    · simp only [hxtag, if_true, hsame x hx hxtag]
    · simp only [hxtag, if_false]
  simp only [State.oldestOn, State.updateEntry, List.find?_map, Option.map_map]
  refine Eq.trans ?_ (congrArg (Option.map LinkEntry.tag) hfind)
  congr 1
  funext x
  simp only [Function.comp_apply]
  split <;> simp_all

/-- New progress of an entry that has work left; where it has begun, it is the oldest of its window. -/
theorem State.EntryLaw.update {s : State} (h : s.EntryLaw) (hnodup : (s.queue.map LinkEntry.tag).Nodup)
    {e e' : LinkEntry} (he : s.entryOf e.tag = some e) (hsame : e'.SameRequest e)
    (hwork : e.request.isBus = true → (e'.request.workAt e'.done).isSome = true)
    (hbegun : e'.state ≠ .waiting →
      e.request.isBus = true ∧ (s.oldestOn e.window).map LinkEntry.tag = some e.tag) :
    (s.updateEntry e').EntryLaw := by
  have hmem := (State.entryOf_some he).2
  have holdest := State.updateEntry_oldestOn (e' := e') hnodup (by rw [hsame.tag, he]) hsame.window
  refine ⟨fun x hx => ?_, fun x hx hstate => ?_, fun x hx hbus hforce => ?_⟩ <;>
    obtain ⟨y, hy, rfl⟩ := List.mem_map.mp hx
  · split
    · rw [hsame.request] at hwork ⊢
      exact hwork
    · exact h.work y hy
  · rw [holdest]
    split at hstate
    · rw [if_pos ‹_›, hsame.request, hsame.window, hsame.tag]
      exact hbegun hstate
    · rw [if_neg ‹_›]
      exact h.begun y hy hstate
  · show (s.window _).health.state ≠ .failed
    split at hbus
    · rw [if_pos ‹_›] at hforce ⊢
      rw [hsame.request] at hbus
      rw [hsame.force] at hforce
      rw [hsame.window]
      exact h.healthy e hmem hbus hforce
    · rw [if_neg ‹_›] at hforce ⊢
      exact h.healthy y hy hbus hforce

/-- New progress that leaves the state and the place in the work as they are. -/
theorem State.EntryLaw.progress {s : State} (h : s.EntryLaw) (hnodup : (s.queue.map LinkEntry.tag).Nodup)
    {e e' : LinkEntry} (he : s.entryOf e.tag = some e) (hsame : e'.SameRequest e) (hstate : e'.state = e.state)
    (hdone : e'.done = e.done) : (s.updateEntry e').EntryLaw := by
  have hmem := (State.entryOf_some he).2
  refine h.update hnodup he hsame (fun hbus => ?_) fun hbegun => h.begun e hmem (by rwa [hstate] at hbegun)
  rw [hsame.request, hdone]
  exact h.work e hmem hbus

/-- What is accepted waits behind the others, with its work before it (R44). -/
theorem State.EntryLaw.accept {s : State} (h : s.EntryLaw) {t : Tag} {tagByte : Byte} {w : WinId} {r : LinkRequest}
    (hadmits : s.admits tagByte w r) : (s.accept t tagByte w r).EntryLaw := by
  obtain ⟨-, hadmits⟩ := hadmits
  have hqueue := State.accept_queue s t tagByte w r
  have hnew : (s.newEntry t tagByte w r).request = r ∧ (s.newEntry t tagByte w r).done = 0 ∧
      (s.newEntry t tagByte w r).state = .waiting ∧ (s.newEntry t tagByte w r).window = w ∧
      (s.newEntry t tagByte w r).force = forceOf tagByte := ⟨rfl, rfl, rfl, rfl, rfl⟩
  generalize s.newEntry t tagByte w r = new at hqueue hnew
  obtain ⟨rfl, hdone, hwaiting, rfl, hforceOf⟩ := hnew
  have hwindow : ∀ v, (s.accept t tagByte new.window new.request).window v = s.window v := fun v =>
    State.window_congr (State.accept_windows ..) v
  have hcases : ∀ e ∈ (s.accept t tagByte new.window new.request).queue, e ∈ s.queue ∨ e = new := fun e he => by
    rw [hqueue] at he
    simpa using he
  refine ⟨fun e he hbus => ?_, fun e he hstate => ?_, fun e he hbus hforce => ?_⟩
  · rcases hcases e he with hmem | rfl
    · exact h.work e hmem hbus
    · rw [hdone]
      exact (hadmits hbus).1
  · rcases hcases e he with hmem | rfl
    · obtain ⟨hbus, holdest⟩ := h.begun e hmem hstate
      obtain ⟨x, hx, htag⟩ := Option.map_eq_some_iff.mp holdest
      refine ⟨hbus, ?_⟩
      rw [State.oldestOn] at hx
      rw [State.oldestOn, hqueue, List.find?_append, hx]
      exact congrArg some htag
    · exact absurd hwaiting hstate
  · rw [hwindow]
    rcases hcases e he with hmem | rfl
    · exact h.healthy e hmem hbus hforce
    · exact (hadmits hbus).2.resolve_left (by simp [← hforceOf, hforce])

theorem State.EntryLaw.of_empty {s : State} (h : s.queue = []) : s.EntryLaw := by
  have hnone : ∀ e, e ∉ s.queue := fun e => by simp [h]
  exact ⟨fun e he => absurd he (hnone e), fun e he => absurd he (hnone e), fun e he => absurd he (hnone e)⟩

/-! ## The turn -/

theorem State.NoneActive.subset {s t : State} (h : s.NoneActive) (hqueue : ∀ e ∈ t.queue, e ∈ s.queue) :
    t.NoneActive := fun e he => h e (hqueue e he)

theorem State.NoneActive.of_eq {s t : State} (h : s.NoneActive) (hqueue : t.queue = s.queue) : t.NoneActive :=
  h.subset fun _ he => hqueue ▸ he

/-- A turn that no link entry holds is served while no entry is ACTIVE. -/
theorem State.NoneActive.serves {s : State} (h : s.NoneActive) {turn : Turn}
    (hholder : ∀ tag, turn.holder ≠ .link tag) : s.Serves turn :=
  ⟨fun e he hstate => absurd hstate (h e he), fun tag htag => absurd htag (hholder tag)⟩

/-- While a turn is served that no link entry holds, no entry is ACTIVE. -/
theorem State.Serves.noneActive {s : State} {turn : Turn} (h : s.Serves turn)
    (hholder : ∀ tag, turn.holder ≠ .link tag) : s.NoneActive :=
  fun e he hstate => hholder e.tag (h.active e he hstate)

/-- With no ACTIVE entry no link entry holds the turn that is served. -/
theorem State.Serves.holder_ne {s : State} {turn : Turn} (h : s.Serves turn) (hnone : s.NoneActive) (tag : Tag) :
    turn.holder ≠ .link tag := fun htag => by
  obtain ⟨e, he, hstate, -⟩ := h.entry tag htag
  exact hnone e (State.entryOf_some he).2 hstate

theorem State.Serves.congr {s t : State} {turn turn' : Turn} (h : s.Serves turn) (hqueue : t.queue = s.queue)
    (hholder : turn'.holder = turn.holder) (hwindow : turn'.window = turn.window) : t.Serves turn' := by
  refine ⟨?_, fun tag htag => ?_⟩
  · rw [hqueue, hholder]
    exact h.active
  · rw [State.entryOf_congr hqueue, hwindow]
    exact h.entry tag (hholder ▸ htag)

/-- Another entry's completion does not touch the turn. -/
theorem State.Serves.complete {s : State} {turn : Turn} (h : s.Serves turn) {e : LinkEntry}
    (hother : turn.holder ≠ .link e.tag) (status : Status) : (s.complete e status).Serves turn := by
  refine ⟨fun x hx => ?_, fun tag htag => ?_⟩
  · rw [State.complete_queue] at hx
    exact h.active x (List.mem_of_mem_filter hx)
  · rw [State.complete_entryOf_ne _ _ _ (by rintro rfl; exact hother htag)]
    exact h.entry tag htag

/-- When the holder completes, no entry is ACTIVE any more. -/
theorem State.Serves.complete_holder {s : State} {turn : Turn} (h : s.Serves turn) {e : LinkEntry}
    (hholder : turn.holder = .link e.tag) (status : Status) : (s.complete e status).NoneActive := by
  intro x hx hstate
  rw [State.complete_queue] at hx
  obtain ⟨hmem, hne⟩ := List.mem_filter.mp hx
  have := (h.active x hmem hstate).symm.trans hholder
  simp_all

/-- New progress of an entry whose state stays. -/
theorem State.Serves.update {s : State} {turn : Turn} (h : s.Serves turn) {e e' : LinkEntry}
    (he : s.entryOf e.tag = some e) (hsame : e'.SameRequest e) (hstate : e'.state = e.state) :
    (s.updateEntry e').Serves turn := by
  refine ⟨fun x hx hactive => ?_, fun tag htag => ?_⟩
  · obtain ⟨y, hy, rfl⟩ := List.mem_map.mp hx
    split at hactive
    · rw [if_pos ‹_›, hsame.tag]
      exact h.active e (State.entryOf_some he).2 (by rw [← hstate, hactive])
    · rw [if_neg ‹_›]
      exact h.active y hy hactive
  · obtain ⟨y, hy, hactive, hbus, hwindow⟩ := h.entry tag htag
    rw [State.updateEntry_entryOf_eq, hy, Option.map_some]
    split
    · rename_i hytag
      obtain rfl : y = e := by
        rw [hsame.tag, State.entryOf_tag hy] at hytag
        rw [hytag, he] at hy
        exact (Option.some.inj hy).symm
      exact ⟨e', rfl, by rw [hstate, hactive], by rw [hsame.request, hbus], by rw [hsame.window, hwindow]⟩
    · exact ⟨y, rfl, hactive, hbus, hwindow⟩

theorem State.TurnLaw.congr {s t : State} (h : s.TurnLaw) (hqueue : t.queue = s.queue)
    (hturn : t.bus.turn = s.bus.turn)
    (hstate : ∀ a, t.bus.state = .access a → ∃ b, s.bus.state = .access b ∧ a.window = b.window) : t.TurnLaw := by
  refine ⟨fun hnone => (h.none (hturn ▸ hnone)).of_eq hqueue,
    fun turn hserved => (h.serves turn (hturn ▸ hserved)).congr hqueue rfl rfl, fun a turn ha hserved => ?_⟩
  obtain ⟨b, hb, hwindow⟩ := hstate a ha
  exact hwindow.trans (h.access b turn hb (hturn ▸ hserved))

theorem State.TurnLaw.of_eq {s t : State} (h : s.TurnLaw) (hqueue : t.queue = s.queue) (hbus : t.bus = s.bus) :
    t.TurnLaw := h.congr hqueue (by rw [hbus]) fun a ha => ⟨a, by rw [← hbus, ha], rfl⟩

theorem State.NoneActive.turnLaw {s : State} (h : s.NoneActive) (hturn : s.bus.turn = none) : s.TurnLaw :=
  ⟨fun _ => h, fun _ ht => (Option.some_ne_none _ (ht.symm.trans hturn)).elim,
    fun _ _ _ ht => (Option.some_ne_none _ (ht.symm.trans hturn)).elim⟩

theorem State.TurnLaw.complete {s : State} (h : s.TurnLaw) {e : LinkEntry}
    (hother : ∀ turn, s.bus.turn = some turn → turn.holder ≠ .link e.tag) (status : Status) :
    (s.complete e status).TurnLaw := by
  have hbus : (s.complete e status).bus = s.bus := State.complete_bus ..
  refine ⟨fun hnone => ?_, fun turn hturn => ?_, fun a turn ha hturn => ?_⟩
  · rw [hbus] at hnone
    refine (h.none hnone).subset fun x hx => ?_
    rw [State.complete_queue] at hx
    exact List.mem_of_mem_filter hx
  · rw [hbus] at hturn
    exact (h.serves turn hturn).complete (hother turn hturn) status
  · rw [hbus] at ha hturn
    exact h.access a turn ha hturn

/-! ### Turns that end and turns that go on -/

theorem State.takeLend_turn (s : State) : s.takeLend.bus.turn = none := by
  unfold State.takeLend
  split <;> rfl

theorem State.endTurn_turn (s : State) : s.endTurn.bus.turn = none := by
  unfold State.endTurn
  split
  · exact s.takeLend_turn
  · rfl

theorem State.NoneActive.takeLend {s : State} (h : s.NoneActive) : s.takeLend.TurnLaw :=
  (h.of_eq (State.takeLend_queue s)).turnLaw s.takeLend_turn

theorem State.NoneActive.endTurn {s : State} (h : s.NoneActive) : s.endTurn.TurnLaw :=
  (h.of_eq (State.endTurn_queue s)).turnLaw s.endTurn_turn

/-- The link holder of a turn that is served has work (R22, R43). -/
theorem State.Serves.workOf_isSome {s : State} {turn : Turn} (h : s.Serves turn) (hentries : s.EntryLaw) {tag : Tag}
    (htag : turn.holder = .link tag) : (s.workOf turn).isSome = true := by
  obtain ⟨e, he, -, hbus, -⟩ := h.entry tag htag
  have hwork := hentries.work e (State.entryOf_some he).2 hbus
  simpa [State.workOf, htag, he] using hwork

/-- A turn that is served goes on with its next access, or ends if no link entry holds it (R22, R24). -/
theorem State.Serves.startNext {s : State} {turn : Turn} (h : s.Serves turn) (hentries : s.EntryLaw) :
    (s.startNext turn).TurnLaw := by
  unfold State.startNext
  split
  · rename_i hwork
    refine (h.noneActive fun tag htag => ?_).endTurn
    have := h.workOf_isSome hentries htag
    rw [hwork] at this
    cases this
  · refine ⟨nofun, fun turn' hturn => ?_, fun a turn' ha hturn => ?_⟩
    · obtain rfl : turn = turn' := Option.some.inj hturn
      exact h.congr rfl rfl rfl
    · obtain rfl : turn = turn' := Option.some.inj hturn
      obtain rfl := BusState.access.inj ha
      rfl

/-- It starts in its first access, or in a GAP before it (R22, R33). -/
theorem State.Serves.beginTurn {s : State} {turn : Turn} (h : s.Serves turn) (hentries : s.EntryLaw) :
    (s.beginTurn turn).TurnLaw := by
  unfold State.beginTurn
  split
  · exact h.startNext hentries
  · split
    · exact h.startNext hentries
    · refine ⟨nofun, fun turn' hturn => ?_, nofun⟩
      obtain rfl : turn = turn' := Option.some.inj hturn
      exact h.congr rfl rfl rfl

/-! ## Sound states -/

/-- A state that keeps the laws of the queue, of the bus and of service. -/
structure State.Sound (s : State) : Prop where
  queue : s.QueueLaw
  bus : s.BusLaw
  entries : s.EntryLaw
  turn : s.TurnLaw

theorem State.sound_iff {s : State} : s.Sound ↔ s.QueueLaw ∧ s.BusLaw ∧ s.ServiceLaw := by
  constructor
  · intro h
    exact ⟨h.queue, h.bus, (State.serviceLaw_iff h.queue.nodup).mpr ⟨h.entries, h.turn⟩⟩
  · rintro ⟨hqueue, hbus, hservice⟩
    obtain ⟨hentries, hturn⟩ := (State.serviceLaw_iff hqueue.nodup).mp hservice
    exact ⟨hqueue, hbus, hentries, hturn⟩

/-- An entry that is not ACTIVE holds no turn. -/
theorem State.Sound.holder_ne {s : State} (h : s.Sound) {e : LinkEntry} (he : e ∈ s.queue) (hstate : e.state ≠ .active)
    (turn : Turn) (hturn : s.bus.turn = some turn) : turn.holder ≠ .link e.tag := fun hholder => by
  obtain ⟨x, hx, hactive, -⟩ := (h.turn.serves turn hturn).entry _ hholder
  rw [State.entryOf_of_nodup h.queue.nodup he] at hx
  exact hstate (by rw [Option.some.inj hx, hactive])

/-- While the bus is IDLE, LENT or in RECLAIM no entry is ACTIVE (R21, R22). -/
theorem State.Sound.noneActive {s : State} (h : s.Sound)
    (hstate : s.bus.state = .idle ∨ s.bus.state = .lent ∨ ∃ n, s.bus.state = .reclaim n) : s.NoneActive := by
  refine h.turn.none ?_
  have hbus := h.bus
  rcases hstate with hstate | hstate | ⟨n, hstate⟩ <;> simp_all [State.BusLaw, Bus.wellFormed]

/-- Soundness goes over from `s` to `t`. -/
def State.KeepsSound (s t : State) : Prop := s.Sound → t.Sound

theorem State.keepsSound_of {s t : State} (hqueue : s.KeepsQueueLaw t) (hbus : s.KeepsBusLaw t)
    (h : s.Sound → t.EntryLaw ∧ t.TurnLaw) : s.KeepsSound t := fun hsound =>
  ⟨hqueue hsound.queue, hbus hsound.bus, (h hsound).1, (h hsound).2⟩

/-- An effect that leaves the queue, the bus and the windows alone. -/
theorem State.keepsSound_of_eq {s t : State} (hqueue : s.KeepsQueueLaw t) (heq : t.queue = s.queue)
    (hbus : t.bus = s.bus) (hwindows : t.windows = s.windows) : s.KeepsSound t :=
  State.keepsSound_of hqueue (State.keepsBusLaw_of_eq hbus) fun h =>
    ⟨h.entries.of_windows heq hwindows, h.turn.of_eq heq hbus⟩

/-- An event that writes the bus only. -/
theorem State.keepsSound_of_bus {s t : State} (heq : t = { s with bus := t.bus }) (hbus : s.KeepsBusLaw t)
    (hturn : s.Sound → t.TurnLaw) : s.KeepsSound t :=
  State.keepsSound_of (State.keepsQueueLaw_of_bus heq) hbus fun h =>
    ⟨h.entries.of_windows (by rw [heq]) (by rw [heq]), hturn h⟩

/-- The completion of an entry that holds no turn. -/
theorem State.Sound.complete {s : State} (h : s.Sound) {e : LinkEntry}
    (hother : ∀ turn, s.bus.turn = some turn → turn.holder ≠ .link e.tag) (status : Status) :
    (s.complete e status).EntryLaw ∧ (s.complete e status).TurnLaw :=
  ⟨h.entries.complete h.queue.nodup e status, h.turn.complete hother status⟩

/-- New progress of an entry whose state and place in its work stay. -/
theorem State.Sound.progress {s : State} (h : s.Sound) {e e' : LinkEntry} (he : s.entryOf e.tag = some e)
    (hsame : e'.SameRequest e) (hstate : e'.state = e.state) (hdone : e'.done = e.done) :
    (s.updateEntry e').EntryLaw ∧ (s.updateEntry e').TurnLaw := by
  refine ⟨h.entries.progress h.queue.nodup he hsame hstate hdone, fun hnone => ?_,
    fun turn hturn => (h.turn.serves turn hturn).update he hsame hstate, fun a turn => h.turn.access a turn⟩
  intro x hx
  obtain ⟨y, hy, rfl⟩ := List.mem_map.mp hx
  split
  · rw [hstate]
    exact h.turn.none hnone e (State.entryOf_some he).2
  · exact h.turn.none hnone y hy

end Sys2Proof.Machine
end

section
/-! PROOFS. Every effect keeps a sound state sound: the queue and the turn in service agree, what has begun is the
oldest of its window, and a FAILED window has no bus request without FORCE (R22, R43, R46, R47, R64). -/

namespace Sys2Proof.Machine

/-! ## The end of an access: the holder (R53 to R57, R106) -/

/-- The turn may go on as `next` says: with a turn that is served, with the bus held, or not at all. -/
def State.Continues (s : State) (t : Turn) : TurnNext → Prop
  | .goOn t' => s.Serves t'
  | .wait => s.Serves t
  | .stop => s.NoneActive

theorem State.Continues.turnLaw {s : State} {t : Turn} {next : TurnNext} (h : s.Continues t next)
    (hentries : s.EntryLaw) (hturn : s.bus.turn = some t) : (s.continueTurn t next).TurnLaw := by
  cases next with
  | goOn t' => exact State.Serves.startNext h hentries
  | wait =>
    refine ⟨fun hnone => (Option.some_ne_none _ (hturn.symm.trans hnone)).elim, fun turn ht => ?_, nofun⟩
    obtain rfl : t = turn := Option.some.inj (hturn.symm.trans ht)
    exact State.Serves.congr h rfl rfl rfl
  | stop => exact State.NoneActive.endTurn h

theorem State.Continues.of_eq {s x : State} {t : Turn} {next : TurnNext} (h : s.Continues t next)
    (hqueue : x.queue = s.queue) : x.Continues t next := by
  cases next with
  | goOn t' => exact State.Serves.congr h hqueue rfl rfl
  | wait => exact State.Serves.congr h hqueue rfl rfl
  | stop => exact State.NoneActive.of_eq h hqueue

/-- What the holder of a turn that is served leaves: an entry law, a turn that may go on, and no ACTIVE entry where the
health machine takes a failure. -/
structure TurnResult.Sound (r : TurnResult) (t : Turn) (o : Outcome) : Prop where
  entries : r.state.EntryLaw
  continues : r.state.Continues t r.next
  quiet : accessInput o r.exhausted = .failure → r.next = .stop

theorem accessInput_ok : accessInput .ok false = .success := rfl

/-- The ACTIVE holder takes an outcome. -/
theorem State.linkTakes_sound {s : State} {t : Turn} {e : LinkEntry} (hentries : s.EntryLaw)
    (hnodup : (s.queue.map LinkEntry.tag).Nodup) (hserves : s.Serves t) (he : s.entryOf e.tag = some e)
    (hactive : e.state = .active) (o : Outcome) (lines : BusData) :
    (s.linkTakes e t o lines).Sound t o := by
  have hmem := (State.entryOf_some he).2
  have hholder := hserves.active e hmem hactive
  have hbegun : ∀ {e' : LinkEntry}, e'.state ≠ .waiting →
      e.request.isBus = true ∧ (s.oldestOn e.window).map LinkEntry.tag = some e.tag := fun _ =>
    hentries.begun e hmem (by rw [hactive]; exact nofun)
  have hwork := hentries.work e hmem
  have htaken := s.linkTakes_taken e t o lines
  generalize s.linkTakes e t o lines = r at htaken
  cases htaken with
  | completes same status exhausted =>
    exact ⟨hentries.complete hnodup _ _, hserves.complete_holder (by rw [same.tag, hholder]) _, fun _ => rfl⟩
  | goesOn same state work =>
    exact ⟨hentries.update hnodup he same (fun _ => work) hbegun, hserves.update he same state, nofun⟩
  | waits same state done =>
    refine ⟨hentries.update hnodup he same (fun hbus => ?_) hbegun, hserves.update he same state, nofun⟩
    rw [same.request, done]
    exact hwork hbus
  | defers same state done =>
    refine ⟨hentries.update hnodup he same (fun hbus => ?_) hbegun, fun x hx hxactive => ?_, fun _ => rfl⟩
    · rw [same.request, done]
      exact hwork hbus
    · obtain ⟨y, hy, rfl⟩ := List.mem_map.mp hx
      split at hxactive
      · rw [state] at hxactive
        cases hxactive
      · rename_i hne
        have hytag : Holder.link y.tag = .link e.tag := (hserves.active y hy hxactive).symm.trans hholder
        exact hne (by rw [same.tag, Holder.link.inj hytag])

/-- A poll takes an outcome: its turn goes on, or ends (R106, R107). -/
theorem State.pollTakes_next (s : State) (id : WatchId) (x : WatchEntry) (t : Turn) (o : Outcome) (lines : BusData) :
    (s.pollTakes id x t o lines).next = .stop ∨
      (o = .ok ∧ (s.pollTakes id x t o lines).exhausted = false ∧
        ∃ t', t'.holder = t.holder ∧ t'.window = t.window ∧ (s.pollTakes id x t o lines).next = .goOn t') := by
  cases o with
  | ok =>
    unfold State.pollTakes
    dsimp only
    split
    · exact .inr ⟨rfl, rfl, { t with pollIndex := t.pollIndex + 1, pollHeld := _ }, rfl, rfl, rfl⟩
    · exact .inl rfl
  | noReady => exact .inl rfl
  | defer => exact .inl rfl

theorem State.pollTakes_windows (s : State) (id : WatchId) (x : WatchEntry) (t : Turn) (o : Outcome)
    (lines : BusData) : (s.pollTakes id x t o lines).state.windows = s.windows := by
  unfold State.pollTakes State.pollEnds
  dsimp only
  repeat' split
  all_goals rfl

theorem State.holderTakes_sound {s : State} {t : Turn} (hentries : s.EntryLaw)
    (hnodup : (s.queue.map LinkEntry.tag).Nodup) (hserves : s.Serves t) (o : Outcome) (lines : BusData) :
    (s.holderTakes t o lines).Sound t o := by
  unfold State.holderTakes
  dsimp only
  split
  · rename_i tag htag
    obtain ⟨e, he, hactive, -⟩ := hserves.entry tag htag
    rw [he]
    exact State.linkTakes_sound hentries hnodup hserves (by rw [State.entryOf_tag he, he]) hactive o lines
  · rename_i id hid
    have hnone := hserves.noneActive (by rw [hid]; exact nofun)
    split
    · exact ⟨hentries, hnone, fun _ => rfl⟩
    · rename_i x _
      have hqueue := (s.pollTakes_queue id x t o lines).1
      refine ⟨hentries.of_windows hqueue (s.pollTakes_windows id x t o lines), ?_, fun hfailure => ?_⟩
      · rcases s.pollTakes_next id x t o lines with hnext | ⟨-, -, t', hholder, hwindow, hnext⟩ <;> rw [hnext]
        · exact hnone.of_eq hqueue
        · exact hserves.congr hqueue hholder hwindow
      · rcases s.pollTakes_next id x t o lines with hnext | ⟨rfl, hexhausted, -⟩
        · exact hnext
        · rw [hexhausted, accessInput_ok] at hfailure
          cases hfailure
  · rename_i hdropped
    exact ⟨hentries, hserves.noneActive (by rw [hdropped]; exact nofun), fun _ => rfl⟩

/-! ## The end of an access: the health of the window (R64, R86, R87) -/

/-- A health input lets entries leave the queue and does nothing else to it. -/
theorem State.judge_queue_filter (s : State) (w : WinId) (input : HealthInput) :
    ∃ p, (s.judge w input).1.queue = s.queue.filter p := by
  have hall : s.queue = s.queue.filter fun _ => true := by rw [List.filter_true]
  unfold State.judge
  dsimp only
  split
  · exact ⟨_, hall⟩
  · exact ⟨_, by simp only [State.flush, State.completeAll_queue]; rfl⟩
  · exact ⟨_, hall⟩

/-- An input that is no failure lets no entry leave. -/
theorem State.judge_queue_of_ne_failure (s : State) (w : WinId) {input : HealthInput} (h : input ≠ .failure) :
    (s.judge w input).1.queue = s.queue := by
  cases input with
  | success => exact (s.judge_success w).1
  | failure => exact absurd rfl h
  | neutral => rw [State.judge_neutral]

theorem Health.input_of_declared {h : Health} {declareCount clearCount : Nat} {i : HealthInput}
    (hdeclared : (h.take declareCount clearCount i).2 = .declared) : i = .failure := by
  cases i with
  | failure => rfl
  | neutral => cases hdeclared
  | success =>
    revert hdeclared
    cases hstate : h.state <;> simp only [Health.take, hstate]
    · exact nofun
    · exact nofun
    · split <;> exact nofun

/-- While no entry is ACTIVE, a window that fails keeps no bus request without FORCE (R64). -/
theorem State.EntryLaw.judge {s : State} (h : s.EntryLaw) (hnodup : (s.queue.map LinkEntry.tag).Nodup) {w : WinId}
    {input : HealthInput} (hquiet : input = .failure → s.NoneActive) : (s.judge w input).1.EntryLaw := by
  obtain ⟨p, hqueue⟩ := s.judge_queue_filter w input
  refine h.filter hnodup hqueue fun e he hbus hforce => ?_
  obtain ⟨hmem, hflushed⟩ := State.judge_queue he
  rw [State.judge_window]
  split
  · rename_i hw
    subst hw
    intro hfailed
    have hdeclared := (Health.take_declared _ _ _ _).mpr ⟨h.healthy e hmem hbus hforce, hfailed⟩
    have hactive := hquiet (Health.input_of_declared hdeclared) e hmem
    have hstays := hflushed hdeclared
    simp [LinkEntry.flushedBy, hbus, hforce, hactive] at hstays
  · exact h.healthy e hmem hbus hforce

/-! ## The end of an access -/

/-- A delivery to a turn that is served (R29). -/
theorem State.deliver_sound {s : State} {t : Turn} (hqueueLaw : s.QueueLaw) (hentries : s.EntryLaw)
    (hserves : s.Serves t) (a : Access) (o : Outcome) (lines : BusData) :
    (s.deliver a t o lines).1.EntryLaw ∧
      (s.deliver a t o lines).1.Continues t (s.deliver a t o lines).2 := by
  obtain ⟨x, hqueue, -, hxqueue, hxtracker, hxwindows⟩ := s.deliver_queue a t o lines
  have hnext : (s.deliver a t o lines).2 = (s.holderPart a t o lines).next := rfl
  have hframe := State.holderTakes_frame
    ({ s with bus := { s.bus with gapRecord := a.gapAfter } }.countOutcome a.window o) t o lines
  have hheld : (s.holderPart a t o lines).Sound t o := by
    refine State.holderTakes_sound ?_ ?_ ?_ o lines
    · exact hentries.of_windows rfl rfl
    · exact hqueueLaw.nodup
    · exact hserves.congr rfl rfl rfl
  have hheldLaw : (s.holderPart a t o lines).state.QueueLaw :=
    State.keepsQueueLaw_holderTakes _ t o lines (State.keepsQueueLaw_of_eq rfl rfl hqueueLaw)
  have hwindow := s.deliver_window a t o lines
  rw [hnext]
  change HolderFrame _ (s.holderPart a t o lines).state at hframe
  generalize s.holderPart a t o lines = r at *
  have hxentries : x.EntryLaw := hheld.entries.of_windows hxqueue (by rw [hxwindows, hframe.windows]; rfl)
  have hquiet : accessInput o r.exhausted = .failure → r.state.NoneActive := fun hfailure => by
    have hcontinues := hheld.continues
    rwa [hheld.quiet hfailure] at hcontinues
  have hjudged : (x.judge a.window (accessInput o r.exhausted)).1.EntryLaw :=
    hxentries.judge (by rw [hxqueue]; exact hheldLaw.nodup) fun hfailure => (hquiet hfailure).of_eq hxqueue
  refine ⟨hjudged.congr hqueue fun w => ?_, ?_⟩
  · rw [hwindow, State.judge_window, State.window_congr hxwindows, State.window_congr hxwindows]
    exact id
  · by_cases hfailure : accessInput o r.exhausted = .failure
    · rw [hheld.quiet hfailure]
      obtain ⟨p, hfilter⟩ := x.judge_queue_filter a.window (accessInput o r.exhausted)
      refine (hquiet hfailure).subset fun e he => ?_
      rw [hqueue, hfilter] at he
      exact hxqueue ▸ List.mem_of_mem_filter he
    · refine hheld.continues.of_eq ?_
      rw [hqueue, x.judge_queue_of_ne_failure a.window hfailure, hxqueue]

theorem State.keepsSound_accessEnd (s : State) (ready : List Bool) (deferred : Bool) (lines : BusData) :
    s.KeepsSound (s.accessEnd ready deferred lines) := by
  refine State.keepsSound_of (s.keepsQueueLaw_accessEnd ready deferred lines)
    (s.keepsBusLaw_accessEnd ready deferred lines) fun h => ?_
  unfold State.accessEnd
  split
  · rename_i a turn _ hturn
    obtain ⟨hentries, hcontinues⟩ := State.deliver_sound h.queue h.entries (h.turn.serves turn hturn) a
      (a.profile.outcome ready deferred) lines
    obtain ⟨-, -, -, -, -, -, hbus, -⟩ := s.deliver_frame a turn (a.profile.outcome ready deferred) lines
    refine ⟨hentries.of_windows ?_ ?_, hcontinues.turnLaw hentries (by rw [hbus, hturn])⟩
    all_goals
      dsimp only
      rw [State.continueTurn_eq]
  · exact ⟨h.entries, h.turn⟩

/-! ## Grants (R51, R52) -/

/-- A granted link bus request becomes ACTIVE and holds the turn (R51). -/
theorem State.Sound.grantLink {s : State} {e : LinkEntry} (h : s.Sound) (hidle : s.bus.turn = none)
    (hmem : e ∈ s.queue) (heligible : s.eligibleLink e = true) :
    (s.grantLink e).EntryLaw ∧ (s.grantLink e).TurnLaw := by
  obtain ⟨hbus, -, holdest⟩ : e.request.isBus = true ∧ _ ∧ (s.oldestOn e.window).map LinkEntry.tag = some e.tag := by
    simpa [State.eligibleLink, and_assoc] using heligible
  have he := State.entryOf_of_nodup h.queue.nodup hmem
  unfold State.grantLink
  split
  · exact h.complete (fun turn hturn => (Option.some_ne_none _ (hturn.symm.trans hidle)).elim) _
  · have hentries : (s.updateEntry { e with state := .active, retryTime := none }).EntryLaw :=
      h.entries.update h.queue.nodup he (by constructor <;> rfl) (h.entries.work e hmem) fun _ => ⟨hbus, holdest⟩
    have hserves : (s.updateEntry { e with state := .active, retryTime := none }).Serves
        { holder := .link e.tag, window := e.window, pollIndex := 0, pollHeld := 0 } := by
      refine ⟨fun x hx hactive => ?_, fun tag htag => ?_⟩
      · obtain ⟨y, hy, rfl⟩ := List.mem_map.mp hx
        split at hactive
        · rw [if_pos ‹_›]
        · exact absurd hactive (h.turn.none hidle y hy)
      · obtain rfl := Holder.link.inj htag
        exact ⟨{ e with state := .active, retryTime := none }, State.updateEntry_entryOf he, rfl, hbus, rfl⟩
    refine ⟨hentries.of_windows (by simp) (by simp), ?_⟩
    exact State.Serves.beginTurn (hserves.congr rfl rfl rfl) (hentries.of_windows rfl rfl)

theorem State.Sound.grantPoll {s : State} (id : WatchId) (h : s.Sound) (hidle : s.bus.turn = none) :
    (s.grantPoll id).EntryLaw ∧ (s.grantPoll id).TurnLaw := by
  unfold State.grantPoll
  split
  · exact ⟨h.entries, h.turn⟩
  · have hnone : State.NoneActive { s with linkGrants := 0 } := (h.turn.none hidle).of_eq rfl
    refine ⟨h.entries.of_windows (by simp) (by simp), ?_⟩
    exact (hnone.serves fun _ hlink => by cases hlink).beginTurn (h.entries.of_windows rfl rfl)

theorem State.keepsSound_grant (s : State) : s.KeepsSound s.grant := by
  refine State.keepsSound_of s.keepsQueueLaw_grant s.keepsBusLaw_grant fun h => ?_
  unfold State.grant
  split
  · rename_i hfree
    obtain ⟨-, hidle, -⟩ := State.busFree_iff.mp hfree
    split
    · exact ⟨h.entries, h.turn⟩
    · rename_i e hchoose
      have hfound := State.linkCandidate_of_choose hchoose
      exact State.Sound.grantLink h hidle (List.mem_of_find?_eq_some hfound) (List.find?_some hfound)
    · exact State.Sound.grantPoll _ h hidle
  · exact ⟨h.entries, h.turn⟩

end Sys2Proof.Machine
end

section
/-! PROOFS. The other effects keep a sound state sound, and so does every step. -/

namespace Sys2Proof.Machine

/-! ## The bus by itself (R33 to R37) -/

theorem State.keepsSound_gapEnd (s : State) : s.KeepsSound s.gapEnd := by
  refine State.keepsSound_of_bus s.gapEnd_eq s.keepsBusLaw_gapEnd fun h => ?_
  unfold State.gapEnd
  dsimp only
  split
  · exact h.turn
  · split
    · rename_i turn hturn
      exact State.Serves.startNext ((h.turn.serves turn hturn).congr rfl rfl rfl) (h.entries.of_windows rfl rfl)
    · rename_i hturn
      exact State.NoneActive.endTurn ((h.turn.none hturn).of_eq rfl)
  all_goals exact h.turn.congr rfl rfl fun a ha => ⟨a, ha, rfl⟩

theorem State.keepsSound_retryWaitEnd (s : State) : s.KeepsSound s.retryWaitEnd := by
  refine State.keepsSound_of_bus s.retryWaitEnd_eq s.keepsBusLaw_retryWaitEnd fun h => ?_
  unfold State.retryWaitEnd
  split
  · rename_i turn _ hturn
    exact (h.turn.serves turn hturn).startNext h.entries
  · exact h.turn

theorem State.TurnLaw.setLendPending {s : State} (h : s.TurnLaw) (b : Bool) : (s.setLendPending b).TurnLaw :=
  h.congr rfl rfl fun a ha => ⟨a, ha, rfl⟩

theorem State.keepsSound_lreqAsserted (s : State) : s.KeepsSound s.lreqAsserted := by
  refine State.keepsSound_of_bus s.lreqAsserted_eq s.keepsBusLaw_lreqAsserted fun h => ?_
  unfold State.lreqAsserted
  split
  · rename_i hidle
    exact State.NoneActive.takeLend ((h.noneActive (.inl hidle)).of_eq rfl)
  · exact h.turn.setLendPending true
  · exact h.turn.setLendPending true
  · split
    · exact h.turn.setLendPending true
    · exact h.turn
  · exact h.turn
  · exact h.turn.setLendPending true

theorem State.keepsSound_lreqWithdrawn (s : State) : s.KeepsSound s.lreqWithdrawn := by
  refine State.keepsSound_of_bus s.lreqWithdrawn_eq s.keepsBusLaw_lreqWithdrawn fun h => ?_
  unfold State.lreqWithdrawn
  split
  · exact h.turn.setLendPending false
  · exact h.turn.setLendPending false
  · exact h.turn.setLendPending false
  · split
    · exact h.turn.setLendPending false
    · exact h.turn.congr rfl rfl nofun
  · exact h.turn.congr rfl rfl nofun
  · exact h.turn.setLendPending false

theorem State.keepsSound_lendTaken (s : State) : s.KeepsSound s.lendTaken := by
  refine State.keepsSound_of_bus s.lendTaken_eq s.keepsBusLaw_lendTaken fun h => ?_
  unfold State.lendTaken
  split
  · rename_i hpending
    have hturn : s.bus.turn = none := by simp_all
    have htaken : s.takeLend.TurnLaw := (h.turn.none hturn).takeLend
    split
    · exact htaken
    · split
      · exact htaken
      · exact h.turn
    all_goals exact h.turn
  · exact h.turn

theorem State.keepsSound_reclaimEnd (s : State) : s.KeepsSound s.reclaimEnd := by
  refine State.keepsSound_of_bus s.reclaimEnd_eq s.keepsBusLaw_reclaimEnd fun h => ?_
  unfold State.reclaimEnd
  split
  · exact (h.noneActive (.inr (.inr ⟨_, ‹_›⟩))).endTurn
  · exact h.turn

theorem Bus.elapse_turn (b : Bus) : b.elapse.turn = b.turn := by
  unfold Bus.elapse
  split <;> rfl

theorem Bus.elapse_access {b : Bus} {a : Access} (h : b.elapse.state = .access a) :
    ∃ a', b.state = .access a' ∧ a.window = a'.window := by
  unfold Bus.elapse at h
  split at h
  · rename_i a' hstate
    exact ⟨a', hstate, by rw [← BusState.access.inj h]⟩
  all_goals simp_all

/-- A bus period moves timers only. -/
theorem State.keepsSound_elapse (s : State) : s.KeepsSound s.elapse :=
  State.keepsSound_of (State.keepsQueueLaw_of_eq rfl rfl) s.keepsBusLaw_elapse fun h =>
    ⟨h.entries.of_windows rfl rfl, h.turn.congr rfl s.bus.elapse_turn fun _ ha => Bus.elapse_access ha⟩

/-! ## Entries (R44, R55, R58, R61, R62) -/

/-- What is accepted is not ACTIVE and takes no other entry's place. -/
theorem State.TurnLaw.accept {s : State} (h : s.TurnLaw) (t : Tag) (tagByte : Byte) (w : WinId) (r : LinkRequest) :
    (s.accept t tagByte w r).TurnLaw := by
  have hold : ∀ e ∈ (s.accept t tagByte w r).queue, e.state = .active → e ∈ s.queue := fun e he hactive => by
    rcases List.mem_append.mp he with he | he
    · exact he
    · rw [List.mem_singleton.mp he] at hactive
      cases hactive
  refine ⟨fun hnone e he hactive => h.none hnone e (hold e he hactive) hactive, fun turn hturn =>
    ⟨fun e he hactive => (h.serves turn hturn).active e (hold e he hactive) hactive, fun tag htag => ?_⟩, h.access⟩
  obtain ⟨e, he, hentry⟩ := (h.serves turn hturn).entry tag htag
  refine ⟨e, ?_, hentry⟩
  rw [State.entryOf] at he
  rw [State.entryOf, State.accept_queue, List.find?_append, he]
  rfl

theorem State.keepsSound_accept {s : State} {t : Tag} {tagByte : Byte} {w : WinId} {r : LinkRequest}
    (hempty : s.tagOf t = .empty) (hadmits : s.admits tagByte w r) : s.KeepsSound (s.accept t tagByte w r) :=
  State.keepsSound_of (State.keepsQueueLaw_accept hempty hadmits) (State.keepsBusLaw_of_eq rfl) fun h =>
    ⟨h.entries.accept hadmits, h.turn.accept t tagByte w r⟩

theorem State.keepsSound_backoffEnd (s : State) (t : Tag) : s.KeepsSound (s.backoffEnd t) := by
  refine State.keepsSound_of (s.keepsQueueLaw_backoffEnd t) (State.keepsBusLaw_of_eq (s.backoffEnd_bus t)) fun h => ?_
  unfold State.backoffEnd
  split
  · exact ⟨h.entries, h.turn⟩
  · rename_i e he
    split
    · exact h.progress (e := e) (by rw [State.entryOf_tag he, he]) (by constructor <;> rfl) rfl rfl
    · exact ⟨h.entries, h.turn⟩

theorem State.keepsSound_deadlinePasses (s : State) (t : Tag) : s.KeepsSound (s.deadlinePasses t) := by
  refine State.keepsSound_of (s.keepsQueueLaw_deadlinePasses t) (State.keepsBusLaw_of_eq (s.deadlinePasses_bus t))
    fun h => ?_
  unfold State.deadlinePasses
  split
  · exact ⟨h.entries, h.turn⟩
  · rename_i e he
    have hmem := (State.entryOf_some he).2
    split
    · exact ⟨h.entries, h.turn⟩
    · split
      · exact h.complete (h.holder_ne hmem (by simp_all)) _
      · exact h.complete (h.holder_ne hmem (by simp_all)) _
      · exact h.progress (e := e) (by rw [State.entryOf_tag he, he]) (by constructor <;> rfl) rfl rfl

/-- An ABORT of the holder in a GAP ends its turn with it (R62). -/
theorem State.keepsSound_abortEntry {s : State} {e : LinkEntry} (he : s.entryOf e.tag = some e) :
    s.KeepsSound (s.abortEntry e) := by
  refine State.keepsSound_of (State.keepsQueueLaw_abortEntry he) (s.keepsBusLaw_abortEntry e) fun h => ?_
  have hmem := (State.entryOf_some he).2
  unfold State.abortEntry
  split
  · exact h.complete (h.holder_ne hmem (by simp_all)) _
  · exact h.complete (h.holder_ne hmem (by simp_all)) _
  · rename_i hactive
    split
    · have hended : s.endTurn.EntryLaw := h.entries.of_windows (by simp) (by simp)
      refine ⟨hended.complete (by simpa using h.queue.nodup) e _, State.NoneActive.turnLaw ?_ (by
        rw [State.complete_bus, State.endTurn_turn])⟩
      cases hturn : s.bus.turn with
      | none => exact absurd hactive (h.turn.none hturn e hmem)
      | some turn =>
        have hserves := h.turn.serves turn hturn
        have hended : s.endTurn.Serves turn := hserves.congr (by simp) rfl rfl
        exact hended.complete_holder (hserves.active e hmem hactive) _
    · exact h.progress he (by constructor <;> rfl) rfl rfl

/-- A window request that takes effect is not ACTIVE, and leaves its window HEALTHY (R18, R19). -/
theorem State.keepsSound_takesEffect (s : State) (w : WinId) : s.KeepsSound (s.takesEffect w) := by
  refine State.keepsSound_of (s.keepsQueueLaw_takesEffect w) (s.keepsBusLaw_takesEffect w) fun h => ?_
  unfold State.takesEffect
  split
  · exact ⟨h.entries, h.turn⟩
  · rename_i e hready
    obtain ⟨hmem, hbus⟩ : e ∈ s.queue ∧ e.request.isBus = false := by
      obtain ⟨holdest, hbus, -⟩ := State.readyRequest_eq_some.mp hready
      exact ⟨(State.mem_of_oldestOn holdest).1, hbus⟩
    have hwaiting : e.state ≠ .active := fun hactive => by
      obtain ⟨hisBus, -⟩ := h.entries.begun e hmem (by rw [hactive]; exact nofun)
      rw [hbus] at hisBus
      cases hisBus
    have hother := h.holder_ne hmem hwaiting
    unfold State.applyWindowRequest
    split
    · exact h.complete hother _
    · have hfresh : ((s.setWindow w ((s.window w).after e.request)).setStats w .zero).EntryLaw := by
        refine h.entries.congr rfl fun v hfailed => ?_
        rw [State.window_setStats, State.window_setWindow] at hfailed
        split at hfailed
        · exact absurd hfailed (by cases e.request <;> exact nofun)
        · exact hfailed
      have hturn : ((s.setWindow w ((s.window w).after e.request)).setStats w .zero).TurnLaw := h.turn.of_eq rfl rfl
      exact ⟨hfresh.complete h.queue.nodup e _, hturn.complete hother _⟩

/-! ## Turns that lose their holder (R38, R39, R156) -/

/-- After the cut no link entry holds a turn (R38). -/
theorem State.cutLinkTurn_holder {s : State} {turn : Turn} (hturn : s.cutLinkTurn.bus.turn = some turn) (tag : Tag) :
    turn.holder ≠ .link tag := by
  unfold State.cutLinkTurn at hturn
  split at hturn
  · simp_all
  · rename_i held hheld
    split at hturn
    · split at hturn
      · rw [← Option.some.inj hturn]
        exact fun hlink => by cases hlink
      · rw [State.endTurn_turn] at hturn
        cases hturn
    all_goals
      obtain rfl : held = turn := Option.some.inj (hheld.symm.trans hturn)
      simp_all

theorem State.endTurn_state_ne_access (s : State) (a : Access) : s.endTurn.bus.state ≠ .access a := by
  unfold State.endTurn State.takeLend
  repeat' split
  all_goals exact nofun

/-- The cut leaves an access in its turn's window (R38). -/
theorem State.cutLinkTurn_access {s : State} (h : s.TurnLaw) {a : Access} {turn : Turn}
    (hstate : s.cutLinkTurn.bus.state = .access a) (hturn : s.cutLinkTurn.bus.turn = some turn) :
    a.window = turn.window := by
  unfold State.cutLinkTurn at hstate hturn
  split at hturn
  · simp_all
  · rename_i held hheld
    split at hturn
    · split at hturn
      · simp only [*] at hstate
        rw [← Option.some.inj hturn]
        exact h.access a held (by simp_all) hheld
      · simp only [State.endTurn_turn, reduceCtorEq] at hturn
    all_goals exact h.access a turn (by simp_all) hturn

theorem State.keepsSound_restarted (s : State) : s.KeepsSound s.restarted := by
  refine State.keepsSound_of (fun _ => State.queueLaw_of_reset rfl rfl) (s.keepsBusLaw_cutLinkTurn) fun h => ?_
  have hnone : s.restarted.NoneActive := fun e he => nomatch he
  exact ⟨State.EntryLaw.of_empty rfl, fun _ => hnone, fun turn hturn => hnone.serves (State.cutLinkTurn_holder hturn),
    fun a turn hstate hturn => State.cutLinkTurn_access h.turn hstate hturn⟩

/-- A poll turn that loses its holder, or ends, is no link turn (R39, R100). -/
theorem State.TurnLaw.orphanPoll {s : State} (h : s.TurnLaw) (id : WatchId) : (s.orphanPoll id).TurnLaw := by
  unfold State.orphanPoll
  split
  · exact h
  · rename_i turn hturn
    split
    · rename_i hholder
      have hnone := (h.serves turn hturn).noneActive (by rw [hholder]; exact nofun)
      split
      · exact hnone.endTurn
      · refine ⟨nofun, fun turn' hturn' => ?_, fun a turn' hstate hturn' => ?_⟩
        · rw [← Option.some.inj hturn']
          have hdropped : ∀ tag, Holder.dropped ≠ .link tag := fun tag hlink => by cases hlink
          exact ((hnone.serves (turn := { turn with holder := .dropped }) hdropped)).congr rfl rfl rfl
        · rw [← Option.some.inj hturn']
          exact h.access a turn hstate hturn
    · exact h

theorem State.keepsSound_dropWatch (s : State) (id : WatchId) : s.KeepsSound (s.dropWatch id) := by
  refine State.keepsSound_of (effectsWithin_keepsQueueLaw.dropWatch s id) (s.keepsBusLaw_dropWatch id) fun h => ?_
  unfold State.dropWatch
  refine ⟨h.entries.of_windows (by simp) (by simp), State.TurnLaw.orphanPoll ?_ id⟩
  exact h.turn.of_eq rfl rfl

/-! ## Resets -/

/-- An empty queue and an IDLE bus are sound. -/
theorem State.sound_of_reset {t : State} (hqueue : t.queue = []) (htracker : t.tracker = .reset)
    (hbus : t.bus = .reset) : t.Sound := by
  have hnone : t.NoneActive := fun e he => by simp [hqueue] at he
  refine ⟨State.queueLaw_of_reset hqueue htracker, ?_, State.EntryLaw.of_empty hqueue,
    hnone.turnLaw (by rw [hbus]; rfl)⟩
  rw [State.BusLaw, hbus]
  rfl

theorem State.boot_sound (s : State) (cause : ResetCause) (rate : BitVec 2) : (s.boot cause rate).Sound := by
  have hbooted : ((s.initialised rate).enterNotice cause.notice).Sound := State.sound_of_reset rfl rfl rfl
  unfold State.boot
  dsimp only
  split
  · exact State.keepsSound_lreqAsserted _ hbooted
  · exact hbooted

/-! ## Every effect, every step -/

theorem State.frameEnd_windows (s : State) : s.frameEnd.windows = s.windows := by
  unfold State.frameEnd
  dsimp only
  repeat' split
  all_goals rfl

/-- Every effect keeps a sound state sound. -/
theorem effectsWithin_keepsSound : EffectsWithin State.KeepsSound where
  refl _ := id
  trans h h' hsound := h' (h hsound)
  transmit s := State.keepsSound_of_eq s.keepsQueueLaw_transmit (by simp) (by simp) (by simp)
  deferTimer _ := State.keepsSound_of_eq id rfl rfl rfl
  receiver _ _ := State.keepsSound_of_eq id rfl rfl rfl
  hear _ := State.keepsSound_of_eq id rfl rfl rfl
  answer s kind tagByte status contents :=
    State.keepsSound_of_eq (s.keepsQueueLaw_answer kind tagByte status contents) rfl rfl rfl
  countDuplicate _ := State.keepsSound_of_eq id rfl rfl rfl
  list ht := State.keepsSound_of_eq (State.keepsQueueLaw_list ht) (by rw [State.list_eq]) (by rw [State.list_eq])
    (by rw [State.list_eq])
  clearTag ht := State.keepsSound_of_eq (State.keepsQueueLaw_clearTag ht) rfl rfl rfl
  store phase r hempty := State.keepsSound_of_eq (effectsWithin_keepsQueueLaw.store phase r hempty) (by simp) (by simp)
    (by simp)
  accept := State.keepsSound_accept
  setWatch _ := State.keepsSound_of_eq id rfl rfl rfl
  dropWatch := State.keepsSound_dropWatch
  clearCounters _ _ := State.keepsSound_of_eq id rfl rfl rfl
  setTiming _ _ := State.keepsSound_of_eq id rfl rfl rfl
  acknowledge _ _ := State.keepsSound_of_eq id rfl rfl rfl
  abortEntry := State.keepsSound_abortEntry
  restarted := State.keepsSound_restarted
  grant := State.keepsSound_grant
  accessEnd := State.keepsSound_accessEnd
  gapEnd := State.keepsSound_gapEnd
  retryWaitEnd := State.keepsSound_retryWaitEnd
  backoffEnd := State.keepsSound_backoffEnd
  deadlinePasses := State.keepsSound_deadlinePasses
  takesEffect := State.keepsSound_takesEffect
  setLreq _ _ := State.keepsSound_of_eq id rfl rfl rfl
  lreqAsserted := State.keepsSound_lreqAsserted
  lreqWithdrawn := State.keepsSound_lreqWithdrawn
  lendTaken := State.keepsSound_lendTaken
  reclaimEnd := State.keepsSound_reclaimEnd
  pollTick _ := State.keepsSound_of_eq id rfl rfl rfl
  intervalEnd _ := State.keepsSound_of_eq id rfl rfl rfl
  resendExpiry _ := State.keepsSound_of_eq id rfl rfl rfl
  frameEnd s := State.keepsSound_of_eq (effectsWithin_keepsQueueLaw.frameEnd s) s.frameEnd_queue.1 s.frameEnd_bus
    s.frameEnd_windows
  boot s cause rate _ := s.boot_sound cause rate
  initialised _ _ _ _ := State.sound_of_reset rfl rfl rfl
  setPending _ _ := State.keepsSound_of_eq id rfl rfl rfl
  elapse := State.keepsSound_elapse

/-- Settles O56: every effect keeps the law of the queue, and with it and the law of the bus the law of service. -/
theorem stepKeepsQueueLaw : Obligations.StepKeepsQueueLaw := by
  refine ⟨fun _ _ hlaw hstep => effectsWithin_keepsQueueLaw.step hstep hlaw, fun s t hqueue hbus hservice hstep => ?_⟩
  obtain ⟨-, -, hservice'⟩ := State.sound_iff.mp
    (effectsWithin_keepsSound.step hstep (State.sound_iff.mpr ⟨hqueue, hbus, hservice⟩))
  exact hservice'

end Sys2Proof.Machine
end

section
/-! PROOFS. A bus period that passes by itself, and the two resets (R32, R34, R37, R40, R140). -/

namespace Sys2Proof.Machine

/-! ## A bus period passes -/

/-- No timer that counts down gives a FREE transmitter something to send. -/
theorem State.elapse_settled {s : State} (h : s.settled) : s.elapse.settled := by
  rcases h with hsending | ⟨himmediate, houtgoing, hdue⟩
  · exact .inl (by simpa [State.elapse] using hsending)
  · exact .inr ⟨himmediate, houtgoing, hdue⟩

theorem State.event_elapse {s : State} (h : s.phase = .running) : s.event State.elapse = s.transmit.elapse := by
  rw [State.event_running h, State.transmit_of_settled (State.elapse_settled s.transmit_settled)]

@[simp] theorem Bus.elapse_lendPending (b : Bus) : b.elapse.lendPending = b.lendPending := by
  unfold Bus.elapse
  split <;> rfl

/-- The release-gap record falls by one outside an access (R32). -/
theorem Bus.elapse_gapRecord {b : Bus} {g : GapRecord} (hgap : b.gapRecord = some g)
    (houtside : ∀ a, b.state ≠ .access a) :
    b.elapse.gapRecord = if g.remaining ≤ 1 then none else some { g with remaining := g.remaining - 1 } := by
  unfold Bus.elapse
  split
  · exact absurd ‹b.state = _› (houtside _)
  all_goals simp only [hgap, Bus.elapse.countGap]

theorem Bus.elapse_reclaim {b : Bus} {n : Nat} (h : b.state = .reclaim n) : b.elapse.state = .reclaim (n - 1) := by
  simp only [Bus.elapse, h]

theorem Bus.elapse_retryWait {b : Bus} {n : Nat} (h : b.state = .retryWait n) :
    b.elapse.state = .retryWait (n - 1) := by
  simp only [Bus.elapse, h]

theorem Bus.elapse_of_access {b : Bus} {a : Access} (h : b.state = .access a) :
    b.elapse.state = .access { a with elapsed := a.elapsed + 1 } := by
  simp only [Bus.elapse, h]

theorem Bus.elapse_at_rest {b : Bus} (h : b.state = .idle ∨ b.state = .gap ∨ b.state = .lent) :
    b.elapse.state = b.state := by
  rcases h with h | h | h <;> simp only [Bus.elapse, h]

/-- Settles O2: the due event, or else the transmitter's open choice and one bus period. -/
theorem emptyQueueLetsTimePass : Obligations.EmptyQueueLetsTimePass := by
  refine ⟨fun s c hpending hdue => by simp only [step, hpending, hdue], fun s hpending hrunning hdue => ?_⟩
  refine ⟨s.transmit.elapse, ?_, ?_⟩
  · simp only [step, hpending, hdue, State.event_elapse hrunning]
  have hbus : s.transmit.elapse.bus = s.bus.elapse := by simp only [State.elapse, State.transmit_bus]
  rw [hbus]
  refine ⟨?_, ?_, ?_, ?_, ?_, ?_, ?_, s.bus.elapse_turn, s.bus.elapse_lendPending,
    fun g => Bus.elapse_gapRecord, fun n => Bus.elapse_reclaim, fun n => Bus.elapse_retryWait,
    fun a => Bus.elapse_of_access, Bus.elapse_at_rest, ?_, ?_, rfl, rfl⟩ <;> simp [State.elapse]

/-! ## The resets -/

/-- Right after a reset the transmitter takes the BOOT notice (R140, R168). -/
theorem State.transmit_boot {s : State} {n : Notice} (hfree : s.tx = .reset) (htracker : s.tracker = .reset)
    (hdue : s.notices.due = some n) : s.transmit = s.takeNotice n := by
  have hlists : s.tx.frame = none ∧ s.tracker.immediate = [] ∧ s.outgoingReply = none := by
    refine ⟨by rw [hfree]; rfl, by rw [htracker]; rfl, ?_⟩
    simp only [State.outgoingReply, htracker, Tracker.reset]
  obtain ⟨hframe, himmediate, houtgoing⟩ := hlists
  simp [State.transmit, hframe, himmediate, houtgoing, hdue]

/-- The bus after a reset: IDLE, or lent at once to a master that asserts LREQn (R36, R40). -/
theorem State.boot_bus (s : State) (cause : ResetCause) (rate : BitVec 2) :
    (s.boot cause rate).bus = if s.lreq then { Bus.reset with state := .lent, lendCount := 1 } else Bus.reset := by
  unfold State.boot
  dsimp only
  split <;> rfl

/-- Whether LREQn is asserted or not, a reset writes nothing else than the bus otherwise. -/
theorem State.boot_eq (s : State) (cause : ResetCause) (rate : BitVec 2) :
    s.boot cause rate =
      { (s.initialised rate).enterNotice cause.notice with bus := (s.boot cause rate).bus } := by
  unfold State.boot
  dsimp only
  split
  · exact State.lreqAsserted_eq _
  · rfl

/-- The bytes of the BOOT notice (R140, R172). -/
theorem ResetCause.notice_toBytes (cause : ResetCause) :
    Notice.toBytes { number := 1, kind := cause.notice.kind, subject := cause.notice.subject, data := cause.notice.data,
                     lost := 0, sent := false } =
      [0x00#8, 0x01#8, 0x01#8, 0x00#8, 0x00#8, 0x00#8, cause.code] := by
  simp [Notice.toBytes, ResetCause.notice, NoticeKind.code, be1, be2]

theorem State.boot_justBooted (s : State) (cause : ResetCause) (rate : BitVec 2) :
    (s.boot cause rate).transmit.justBooted cause rate s.lreq := by
  have hbus := s.boot_bus cause rate
  rw [State.boot_eq] at hbus ⊢
  generalize (s.boot cause rate).bus = b at hbus ⊢
  rw [State.transmit_boot rfl rfl rfl]
  refine ⟨rfl, rfl, rfl, fun w => ⟨?_, ?_⟩, hbus, rfl, rfl, fun id => ?_, rfl, rfl, rfl, rfl, rfl, rfl, rfl, rfl, rfl,
    congrArg (fun body => some (frameBytes 0xF0#8 0x00#8 body)) cause.notice_toBytes⟩
  · simp [State.window, State.takeNotice, State.send, State.enterNotice, State.initialised, State.initial]
  · simp [State.statsOf, State.takeNotice, State.send, State.enterNotice, State.initialised, State.initial]
  · simp [State.watchOf, State.takeNotice, State.send, State.enterNotice, State.initialised, State.initial]

/-- Settles O4: the boot of R140, or a reset that goes on with its new cause. -/
theorem resetEndBoots : Obligations.ResetEndBoots := by
  refine ⟨fun s rate hphase => ⟨_, ?_, s.boot_justBooted .powerOn rate⟩,
    fun s rate cause hphase => ⟨_, ?_, s.boot_justBooted cause rate⟩,
    fun s rate cause hphase => ⟨{ s.initialised rate with phase := .inReset .powerOn }, ?_, rfl, fun _ => rfl⟩⟩
  · simp only [exec, execPowerOn, hphase]
  · simp only [exec, execRstnWithdrawn, hphase]
  · simp only [exec, execPowerOn, hphase]

/-- Settles O5: every block holds its initial values at the assertion. -/
theorem resetPinCutsEverything : Obligations.ResetPinCutsEverything := by
  intro s hphase
  refine ⟨{ s.initialised s.rate with phase := .inReset .resetPin }, ?_, rfl, fun _ => rfl, rfl, rfl, rfl, rfl, rfl,
    rfl, rfl, fun w => ⟨?_, ?_⟩, rfl⟩
  · simp only [exec, execRstnAsserted, hphase]
  · simp [State.statsOf, State.initialised, State.initial]
  · simp [State.window, State.initialised, State.initial]

/-- In reset a command that does not end the reset, and does not follow LREQn, leaves the state as it is (R40). -/
theorem exec_inReset {s : State} {cause : ResetCause} (hphase : s.phase = .inReset cause) {c : Instr}
    (hpower : ∀ rate, c ≠ .powerOn rate) (hwithdrawn : ∀ rate, c ≠ .rstnWithdrawn rate)
    (hassertion : c ≠ .lreqnAsserted) (hwithdrawal : c ≠ .lreqnWithdrawn) : exec c s = .next s := by
  have hevent : ∀ f, .next (s.event f) = (.next s : Host.Outcome State Fault Refusal) := fun f => by
    rw [State.event_inReset hphase]
  have hentry : ∀ f, .next (s.entryEvent f) = (.next s : Host.Outcome State Fault Refusal) := fun f => by
    rw [State.entryEvent_inReset hphase]
  cases c with
  | powerOn rate => exact absurd rfl (hpower rate)
  | rstnWithdrawn rate => exact absurd rfl (hwithdrawn rate)
  | rstnAsserted => simp only [exec, execRstnAsserted, hphase]
  | lreqnAsserted => exact absurd rfl hassertion
  | lreqnWithdrawn => exact absurd rfl hwithdrawal
  | accessEnd ready deferred lines => exact hentry _
  | intervalEnd => exact hentry _
  | _ => exact hevent _

/-- Settles O6: no event has an effect in reset; LREQn is followed. -/
theorem nothingActsInReset : Obligations.NothingActsInReset := by
  intro s c cause hphase hpower hwithdrawn
  by_cases hassertion : c = .lreqnAsserted
  · subst hassertion
    exact congrArg Host.Outcome.next
      (State.event_inReset (s := { s with lreq := true }) hphase State.lreqAsserted)
  · by_cases hwithdrawal : c = .lreqnWithdrawn
    · subst hwithdrawal
      exact congrArg Host.Outcome.next
        (State.event_inReset (s := { s with lreq := false }) hphase State.lreqWithdrawn)
    · rw [if_neg hassertion, if_neg hwithdrawal]
      exact exec_inReset hphase hpower hwithdrawn hassertion hwithdrawal

end Sys2Proof.Machine
end

section
/-! PROOFS. The pins of the local bus (R24 to R26, R41) and the lends to the other master (R35 to R37). -/

namespace Sys2Proof.Machine

/-! ## The strobe (R25, R26) -/

/-- The levels of READY that count: at the ends of the periods from S to max(S, L) (R26). -/
def Profile.readyWindow (p : Profile) (ready : List Bool) : List Bool := (ready.take p.maxStrobe).drop (p.strobe - 1)

theorem Profile.strobeEnd_of_found {p : Profile} {ready : List Bool} {i : Nat} (hmode : p.readyMode = .ready)
    (hfound : (p.readyWindow ready).findIdx? id = some i) : p.strobeEnd ready = (p.strobe + i, true) := by
  rw [Profile.readyWindow] at hfound
  simp only [Profile.strobeEnd, hmode, hfound]

theorem Profile.strobeEnd_of_not_found {p : Profile} {ready : List Bool} (hmode : p.readyMode = .ready)
    (hnone : (p.readyWindow ready).findIdx? id = none) : p.strobeEnd ready = (p.maxStrobe, false) := by
  rw [Profile.readyWindow] at hnone
  simp only [Profile.strobeEnd, hmode, hnone]

theorem Profile.readyWindow_length (p : Profile) (ready : List Bool) :
    (p.readyWindow ready).length = min p.maxStrobe ready.length - (p.strobe - 1) := by
  simp [Profile.readyWindow]

/-- The level at the end of strobe period S + i. -/
theorem Profile.readyWindow_getElem {p : Profile} {ready : List Bool} {i : Nat} (h : i < (p.readyWindow ready).length)
    (hstrobe : 1 ≤ p.strobe) : (p.readyWindow ready)[i] = ready.getD (p.strobe + i - 1) false := by
  have hindex : p.strobe - 1 + i = p.strobe + i - 1 := by omega
  rw [Profile.readyWindow_length] at h
  have hlength : p.strobe + i - 1 < ready.length := by omega
  simp [Profile.readyWindow, hindex, List.getD_eq_getElem?_getD, List.getElem?_eq_getElem hlength]

/-- READY mode ends the strobe at the first period that counts with READY high (R26). -/
theorem Profile.strobeEnd_of_ready {p : Profile} {ready : List Bool} (hmode : p.readyMode = .ready)
    (hstrobe : 1 ≤ p.strobe) {q : Nat} (hfrom : p.strobe ≤ q) (hto : q ≤ max p.strobe p.readyLimit)
    (hhigh : ready.getD (q - 1) false = true)
    (hlow : ∀ r, p.strobe ≤ r → r < q → ready.getD (r - 1) false = false) : p.strobeEnd ready = (q, true) := by
  have hinside : q - 1 < ready.length := by
    by_contra hout
    rw [List.getD_eq_default _ _ (by omega)] at hhigh
    cases hhigh
  have hlength : q - p.strobe < (p.readyWindow ready).length := by
    rw [Profile.readyWindow_length, Profile.maxStrobe]
    omega
  have hfound : (p.readyWindow ready).findIdx? id = some (q - p.strobe) := by
    refine List.findIdx?_eq_some_iff_getElem.mpr ⟨hlength, ?_, fun j hj => ?_⟩
    · rw [Profile.readyWindow_getElem hlength hstrobe, show p.strobe + (q - p.strobe) - 1 = q - 1 by omega]
      exact hhigh
    · rw [Profile.readyWindow_getElem (by omega) hstrobe, hlow (p.strobe + j) (by omega) (by omega)]
      exact Bool.false_ne_true
  rw [Profile.strobeEnd_of_found hmode hfound]
  exact congrArg (·, true) (by omega : p.strobe + (q - p.strobe) = q)

/-- Without READY the strobe ends at the limit (R26). -/
theorem Profile.strobeEnd_of_not_ready {p : Profile} {ready : List Bool} (hmode : p.readyMode = .ready)
    (hstrobe : 1 ≤ p.strobe)
    (hlow : ∀ q, p.strobe ≤ q → q ≤ max p.strobe p.readyLimit → ready.getD (q - 1) false = false) :
    p.strobeEnd ready = (max p.strobe p.readyLimit, false) := by
  have hnone : (p.readyWindow ready).findIdx? id = none := by
    refine List.findIdx?_eq_none_iff.mpr fun x hx => ?_
    obtain ⟨i, hi, rfl⟩ := List.getElem_of_mem hx
    have hlength := p.readyWindow_length ready
    rw [Profile.maxStrobe] at hlength
    rw [Profile.readyWindow_getElem hi hstrobe]
    exact hlow _ (by omega) (by omega)
  exact Profile.strobeEnd_of_not_found hmode hnone

/-! ## The pins (R41) -/

theorem State.pins_of_access {s : State} {a : Access} (h : s.phase = .running) (hstate : s.bus.state = .access a)
    (ready : List Bool) : s.pins ready = { drive := some (a.drive ready), lgnt := false } := by
  simp only [State.pins, h, hstate]

theorem State.pins_of_lent {s : State} (h : s.phase = .running) (hstate : s.bus.state = .lent) (ready : List Bool) :
    s.pins ready = { drive := none, lgnt := true } := by
  simp only [State.pins, h, hstate]

theorem Access.strobe_iff {a : Access} {ready : List Bool} :
    a.strobe ready = true ↔
      a.profile.setup ≤ a.elapsed ∧ a.elapsed < a.profile.setup + (a.profile.strobeEnd ready).1 := by
  simp [Access.strobe]

/-- Settles O42: the strobe by its mode, and the pins by the bus state. -/
theorem readyEndsStrobe : Obligations.ReadyEndsStrobe := by
  refine ⟨fun p ready hmode => by simp only [Profile.strobeEnd, hmode], fun p ready hmode hstrobe =>
    ⟨fun q => Profile.strobeEnd_of_ready hmode hstrobe, Profile.strobeEnd_of_not_ready hmode hstrobe⟩,
    fun s a ready h hstate => ?_, fun s ready h => ⟨?_, fun hstate => State.pins_of_lent h hstate ready, ?_⟩⟩
  · rw [State.pins_of_access h hstate]
    refine ⟨rfl, a.drive ready, rfl, rfl, rfl, rfl, rfl, ?_⟩
    cases hdir : a.dir <;> simp [Access.drive, hdir, Access.strobe_iff]
  · rintro (hstate | hstate | ⟨n, hstate⟩) <;> simp only [State.pins, h, hstate] <;> rfl
  · intro n hstate
    simp only [State.pins, h, hstate]

/-! ## The lends -/

theorem State.takeLend_of_no_record {s : State} (h : s.bus.gapRecord = none) :
    s.takeLend =
      { s with bus := { s.bus with state := .lent, turn := none, lendPending := false,
                                   lendCount := min (s.bus.lendCount + 1) 0xFFFFFFFF } } := by
  simp only [State.takeLend, h]
  rfl

theorem State.takeLend_of_record {s : State} (h : s.bus.gapRecord.isSome = true) :
    s.takeLend = { s with bus := { s.bus with state := .gap, turn := none } } := by
  obtain ⟨g, hg⟩ := Option.isSome_iff_exists.mp h
  simp only [State.takeLend, hg]

/-- Settles O52: the effect of either edge in each bus state. -/
theorem lreqnActsByState : Obligations.LreqnActsByState := by
  refine ⟨fun s h => ⟨_, exec_lreqnAsserted h, ?_⟩, fun s h hidle => ⟨_, exec_lreqnWithdrawn h, ?_⟩⟩
  · have hbus : ({ s with lreq := true } : State).transmit.bus = s.bus := by simp
    rw [State.offWire_of_bus (State.lreqAsserted_eq _), State.transmit_bus]
    congr 2
    generalize State.transmit _ = x at hbus
    unfold State.lreqAsserted
    cases hstate : s.bus.state with
    | idle =>
      rw [hbus, hstate]
      by_cases hrecord : s.bus.gapRecord.isSome = true
      · rw [State.takeLend_of_record (by simpa [State.setLendPending, hbus] using hrecord)]
        simp [State.setLendPending, hbus, hrecord]
      · rw [State.takeLend_of_no_record (by simpa [State.setLendPending, hbus] using hrecord)]
        simp [State.setLendPending, hbus, hrecord]
    | gap =>
      rw [hbus, hstate]
      cases hturn : s.bus.turn <;> simp [State.setLendPending, hbus, hturn]
    | lent =>
      rw [hbus, hstate]
      exact hbus
    | _ =>
      rw [hbus, hstate]
      simp [State.setLendPending, hbus]
  · have hbus : ({ s with lreq := false } : State).transmit.bus = s.bus := by simp
    rw [State.offWire_of_bus (State.lreqWithdrawn_eq _), State.transmit_bus]
    congr 2
    generalize State.transmit _ = x at hbus
    unfold State.lreqWithdrawn
    cases hstate : s.bus.state with
    | idle =>
      rw [hbus, hstate]
      simp [State.setLendPending, hbus, ← hidle hstate]
    | gap =>
      rw [hbus, hstate]
      cases hturn : s.bus.turn <;> simp [State.setLendPending, hbus, hturn]
    | lent =>
      rw [hbus, hstate]
      simp [Config.reclaimTime]
    | _ =>
      rw [hbus, hstate]
      simp [State.setLendPending, hbus]

/-- Without a turn, a command that takes the pending lend where no record holds it back (R35). -/
theorem State.takeLend_transmit_offWire {s : State} (hturn : s.bus.turn = none) (hrecord : s.bus.gapRecord = none) :
    s.transmit.takeLend.transmit.offWire =
      { s with
        bus := { s.bus with state := .lent, lendPending := false,
                            lendCount := min (s.bus.lendCount + 1) 0xFFFFFFFF } }.offWire := by
  rw [State.offWire_of_bus (State.takeLend_eq _), State.transmit_bus,
    State.takeLend_of_no_record (by rw [State.transmit_bus, hrecord])]
  simp [← hturn]

/-- Settles O53: the lend is taken where nothing holds it back; else RECLAIM ends in IDLE. -/
theorem lendTakenAndReclaimed : Obligations.LendTakenAndReclaimed := by
  intro s h hturn hrecord
  have htransmit : s.transmit.bus.gapRecord = none := by rw [State.transmit_bus, hrecord]
  refine ⟨fun hstate hlend => ⟨_, exec_lendTaken h, ?_⟩, fun n hstate hlend => ⟨_, exec_reclaimEnd h, ?_⟩,
    fun n hstate hlend => ⟨_, exec_reclaimEnd h, ?_⟩⟩
  · have htaken : s.transmit.lendTaken = s.transmit.takeLend := by
      rcases hstate with hstate | hstate <;> simp [State.lendTaken, hstate, hlend, hturn, hrecord]
    rw [htaken]
    refine ⟨fun ready => State.pins_of_lent ?_ ?_ ready, State.takeLend_transmit_offWire hturn hrecord⟩
    · simp [h]
    · rw [State.transmit_bus, State.takeLend_of_no_record htransmit]
  · have hended : s.transmit.reclaimEnd = s.transmit.endTurn := by
      simp only [State.reclaimEnd, State.transmit_bus, hstate]
    rw [hended, State.offWire_of_bus (State.endTurn_eq _), State.transmit_bus]
    simp [State.endTurn, hlend, ← hturn]
  · have hended : s.transmit.reclaimEnd = s.transmit.takeLend := by
      simp [State.reclaimEnd, State.endTurn, hstate, hlend]
    rw [hended]
    exact State.takeLend_transmit_offWire hturn hrecord

end Sys2Proof.Machine
end

section
/-! PROOFS. What the holder of a link turn makes of an access that ended OK: its last access completes it, another one
goes on in the same turn (R22, R53, R74 to R81). -/

namespace Sys2Proof.Machine

/-! ## A unit or step that is done (R53) -/

/-- The entry once unit or step `st` is done with the value read so far `v`. -/
def LinkEntry.afterUnit (e : LinkEntry) (st : SeqStep) (v : Value) : LinkEntry :=
  { e with retryCount := 0, accessIndex := 0, held := 0, done := e.done + 1, results := e.results ++ st.result v }

/-- After the last access of the last unit or step the request completes OK. -/
theorem State.linkTakes_completes {s x : State} {e : LinkEntry} {turn : Turn} {st : SeqStep} {lines : BusData}
    (hwindows : x.windows = s.windows) (hwork : e.request.workAt e.done = some st)
    (hlast : e.accessIndex + 1 = st.accesses (s.window e.window).fields.lane)
    (hsame : ¬ st.differs (st.heldAfter (s.window e.window).fields.lane e.accessIndex e.held lines))
    (hsize : e.request.size ≤ e.done + 1) :
    x.linkTakes e turn .ok lines =
      x.stopWith (e.afterUnit st (st.heldAfter (s.window e.window).fields.lane e.accessIndex e.held lines)) .ok
        false := by
  rw [State.linkTakes_last hwindows hwork hlast]
  simp only [State.unitDone, SeqStep.mismatches_eq_false.mpr hsame, hsize, Bool.false_eq_true, if_false, if_true]
  rfl

/-- After the last access of a unit or step before the last the request goes on. -/
theorem State.linkTakes_nextUnit {s x : State} {e : LinkEntry} {turn : Turn} {st : SeqStep} {lines : BusData}
    (hwindows : x.windows = s.windows) (hwork : e.request.workAt e.done = some st)
    (hlast : e.accessIndex + 1 = st.accesses (s.window e.window).fields.lane)
    (hsame : ¬ st.differs (st.heldAfter (s.window e.window).fields.lane e.accessIndex e.held lines))
    (hmore : e.done + 1 < e.request.size) (hstop : e.stopRequested = false) :
    x.linkTakes e turn .ok lines =
      { state := x.updateEntry
          (e.afterUnit st (st.heldAfter (s.window e.window).fields.lane e.accessIndex e.held lines)),
        next := .goOn turn, exhausted := false, notices := [] } := by
  rw [State.linkTakes_last hwindows hwork hlast]
  have hgoes : ¬ e.stopRequested = true := by simp [hstop]
  unfold State.unitDone
  dsimp only
  rw [SeqStep.mismatches_eq_false.mpr hsame, if_neg Bool.false_ne_true, if_neg (Nat.not_le.mpr hmore), if_neg hgoes]
  rfl

/-- After an access before the last of its unit or step the request goes on (R74, R76). -/
theorem State.linkTakes_nextAccess {s x : State} {e : LinkEntry} {turn : Turn} {st : SeqStep} {lines : BusData}
    (hwindows : x.windows = s.windows) (hwork : e.request.workAt e.done = some st)
    (hmore : e.accessIndex + 1 < st.accesses (s.window e.window).fields.lane) :
    x.linkTakes e turn .ok lines =
      { state := x.updateEntry
          { e with retryCount := 0, accessIndex := e.accessIndex + 1,
                   held := st.heldAfter (s.window e.window).fields.lane e.accessIndex e.held lines },
        next := .goOn turn, exhausted := false, notices := [] } := by
  simp [State.linkTakes, hwork, State.window_congr hwindows, hmore, SeqStep.gather_eq_heldAfter]

/-! ## A link turn whose access ends OK -/

section
variable {s : State} {a : Access} {turn : Turn} {tag : Tag} {e : LinkEntry} {st : SeqStep} {ready : List Bool}
  (lines : BusData) (h : s.phase = .running) (hstate : s.bus.state = .access a) (hturn : s.bus.turn = some turn)
  (hholder : turn.holder = .link tag) (he : s.entryOf tag = some e)
  (hready : (a.profile.strobeEnd ready).2 = true) (hwork : e.request.workAt e.done = some st)
include h hstate hturn hholder he hready hwork

/-- The last access of a request completes it OK and its turn is over (R23, R53, R78). -/
theorem exec_accessEnd_completes (hlast : e.accessIndex + 1 = st.accesses (s.window e.window).fields.lane)
    (hsame : ¬ st.differs (st.heldAfter (s.window e.window).fields.lane e.accessIndex e.held lines))
    (hsize : e.request.size ≤ e.done + 1) :
    ∃ t, exec (.accessEnd ready false lines) s = .next t ∧ t.entryOf tag = none ∧
      t.hasStored tag e.phase
        ((e.afterUnit st (st.heldAfter (s.window e.window).fields.lane e.accessIndex e.held lines)).reply .ok) ∧
      s.turnOver t a := by
  obtain ⟨t, hexec, hgone, hstored, hover, -⟩ := exec_accessEnd_stops (ready := ready) (deferred := false)
    (e' := e.afterUnit st (st.heldAfter (s.window e.window).fields.lane e.accessIndex e.held lines))
    (lines := lines) h hstate hturn hholder he (show e.tag = tag from State.entryOf_tag he) fun x _ hwindows _ => by
      rw [Profile.outcome_ok hready]
      exact State.linkTakes_completes hwindows hwork hlast hsame hsize
  exact ⟨t, hexec, hgone, hstored, hover⟩

/-- Another access of the unit or step follows in the same turn (R22, R74, R76). -/
theorem exec_accessEnd_nextAccess (hmore : e.accessIndex + 1 < st.accesses (s.window e.window).fields.lane) :
    ∃ t, exec (.accessEnd ready false lines) s = .next t ∧
      t.entryOf tag = some
        { e with retryCount := 0, accessIndex := e.accessIndex + 1,
                 held := st.heldAfter (s.window e.window).fields.lane e.accessIndex e.held lines } ∧
      s.accessing t turn turn.window st (e.accessIndex + 1)
        (st.heldAfter (s.window e.window).fields.lane e.accessIndex e.held lines) :=
  exec_accessEnd_goesOn
    (e' := { e with retryCount := 0, accessIndex := e.accessIndex + 1,
                    held := st.heldAfter (s.window e.window).fields.lane e.accessIndex e.held lines })
    h hstate hturn hholder he hready (show e.tag = tag from State.entryOf_tag he) hwork fun _ _ hwindows =>
      State.linkTakes_nextAccess hwindows hwork hmore

/-- The first access of the next unit or step follows in the same turn (R22, R53, R78). -/
theorem exec_accessEnd_nextUnit {next : SeqStep}
    (hlast : e.accessIndex + 1 = st.accesses (s.window e.window).fields.lane)
    (hsame : ¬ st.differs (st.heldAfter (s.window e.window).fields.lane e.accessIndex e.held lines))
    (hstop : e.stopRequested = false) (hnext : e.request.workAt (e.done + 1) = some next) :
    ∃ t, exec (.accessEnd ready false lines) s = .next t ∧
      t.entryOf tag = some
        (e.afterUnit st (st.heldAfter (s.window e.window).fields.lane e.accessIndex e.held lines)) ∧
      s.accessing t turn turn.window next 0 0 := by
  have hmore : e.done + 1 < e.request.size := by
    by_contra hend
    rw [LinkRequest.workAt_eq_none (Nat.not_lt.mp hend)] at hnext
    cases hnext
  exact exec_accessEnd_goesOn
    (e' := e.afterUnit st (st.heldAfter (s.window e.window).fields.lane e.accessIndex e.held lines))
    h hstate hturn hholder he hready (show e.tag = tag from State.entryOf_tag he) hnext fun _ _ hwindows =>
      State.linkTakes_nextUnit hwindows hwork hlast hsame hmore hstop

end

/-! ## MODIFY (R80) -/

theorem SeqStep.accesses_of_modify {st : SeqStep} {andMask orMask : Value} (hop : st.op = .modify andMask orMask)
    (lane : Lane) : st.accesses lane = 2 * lane.accesses st.unit := by
  simp only [SeqStep.accesses, hop]

/-- The reads of a MODIFY come first. -/
theorem SeqStep.heldAfter_of_modify {st : SeqStep} {andMask orMask : Value} (hop : st.op = .modify andMask orMask)
    {lane : Lane} {i : Nat} (hi : i < lane.accesses st.unit) (held : Value) (lines : BusData) :
    st.heldAfter lane i held lines = held ||| (lane.piece st.unit st.address i).sample lines := by
  simp only [SeqStep.heldAfter, SeqStep.dirAt, SeqStep.pieceAt, hop, hi, if_true]

/-- Then it writes, from the first piece on. -/
theorem SeqStep.dirAt_of_modify {st : SeqStep} {andMask orMask : Value} (hop : st.op = .modify andMask orMask)
    (lane : Lane) : st.dirAt lane (lane.accesses st.unit) = .write := by
  simp only [SeqStep.dirAt, hop, Nat.lt_irrefl, if_false]

theorem SeqStep.pieceAt_accesses (st : SeqStep) (lane : Lane) :
    st.pieceAt lane (lane.accesses st.unit) = lane.piece st.unit st.address 0 := by
  simp only [SeqStep.pieceAt, Nat.lt_irrefl, if_false, Nat.sub_self]

/-- Settles O47: the last read of a MODIFY is followed by its first write; other accesses and units follow likewise. -/
theorem modifyWritesComputedValue : Obligations.ModifyWritesComputedValue := by
  constructor
  · intro s a turn tag e steps st andMask orMask ready lines h hstate hturn hholder hwindow he hrequest hstep hop hindex
      hready
    have hwork : e.request.workAt e.done = some st := by rw [hrequest]; exact hstep
    have hread : e.accessIndex < (s.window e.window).fields.lane.accesses st.unit := by omega
    obtain ⟨t, hexec, hentry, hturn', -, -, b, hb, -, haddress, -, -, -, hdir, hdata, -⟩ :=
      exec_accessEnd_nextAccess lines h hstate hturn hholder he hready hwork
        (by rw [SeqStep.accesses_of_modify hop]; omega)
    rw [hwindow] at haddress hdir hdata
    rw [hindex] at haddress hdir hdata hentry
    rw [SeqStep.dirAt_of_modify hop] at hdir
    rw [SeqStep.pieceAt_accesses] at haddress hdata
    rw [SeqStep.heldAfter_of_modify hop hread] at hdata hentry
    refine ⟨t, b, hexec, hb, hturn', hdir, haddress, ?_, by rw [hentry]; rfl⟩
    rw [hdata hdir]
    simp only [SeqStep.writeValue, hop]
  · intro s a turn tag e st ready lines h hstate hturn hholder hwindow he hwork hready
    refine ⟨fun hmore => ?_, fun next hlast hsame hstop hnext => ?_⟩
    · obtain ⟨t, hexec, hentry, haccess⟩ :=
        exec_accessEnd_nextAccess lines h hstate hturn hholder he hready hwork hmore
      exact ⟨t, hexec, hentry, hwindow ▸ haccess⟩
    · obtain ⟨t, hexec, hentry, haccess⟩ :=
        exec_accessEnd_nextUnit lines h hstate hturn hholder he hready hwork hlast hsame hstop hnext
      exact ⟨t, hexec, hentry, hwindow ▸ haccess⟩

/-! ## Requests that complete (R53, R75, R77, R78, R84) -/

theorem SeqStep.heldAfter_of_read {st : SeqStep} (hop : st.op = .read) {lane : Lane} {i : Nat}
    (hi : i < lane.accesses st.unit) (held : Value) (lines : BusData) :
    st.heldAfter lane i held lines = held ||| (lane.piece st.unit st.address i).sample lines := by
  simp only [SeqStep.heldAfter, SeqStep.dirAt, SeqStep.pieceAt, hop, hi, if_true]

theorem SeqStep.not_differs_of_op {st : SeqStep} (h : ∀ mask reference, st.op ≠ .test mask reference) (v : Value) :
    ¬ st.differs v := fun ⟨mask, reference, hop, _⟩ => h mask reference hop

/-- The record a read access leaves (R32), and what it makes of a turn that is over. -/
theorem State.turnOver_of_read {s t : State} {a : Access} (h : s.turnOver t a) (hdir : a.dir = .read) :
    t.bus.gapRecord =
        (if a.profile.releaseGap = 0 then none
         else some { select := a.select, remaining := a.profile.releaseGap }) ∧
      (s.bus.lendPending = false → t.bus.state = .idle ∧ t.bus.turn = none) ∧
      (s.bus.lendPending = true → a.profile.releaseGap = 0 →
        t.bus.state = .lent ∧ t.bus.lendCount = min (s.bus.lendCount + 1) 0xFFFFFFFF) ∧
      (s.bus.lendPending = true → a.profile.releaseGap ≠ 0 → t.bus.state = .gap ∧ t.bus.turn = none) := by
  obtain ⟨hrecord, hturn, hidle, hlent, hgap⟩ := h
  by_cases hnone : a.profile.releaseGap = 0
  · have hleft : ¬ (a.dir = .read ∧ 1 ≤ a.profile.releaseGap) := by omega
    rw [if_neg hleft] at hrecord
    refine ⟨by rw [hrecord, if_pos hnone], fun hpending => ⟨(hidle hpending).1, hturn⟩, fun hpending _ => ?_,
      fun _ hsome => absurd hnone hsome⟩
    obtain ⟨hstate, -, hcount⟩ := hlent hpending (if_neg hleft)
    exact ⟨hstate, hcount⟩
  · have hleft : a.dir = .read ∧ 1 ≤ a.profile.releaseGap := ⟨hdir, by omega⟩
    rw [if_pos hleft] at hrecord
    refine ⟨by rw [hrecord, if_neg hnone], fun hpending => ⟨(hidle hpending).1, hturn⟩,
      fun _ hzero => absurd hzero hnone, fun hpending _ => ⟨(hgap hpending ?_).1, hturn⟩⟩
    rw [if_pos hleft]
    exact Option.some_ne_none _

/-- The reply of a request that completes OK with its last unit, by its kind (R75, R77, R84). -/
theorem LinkEntry.reply_afterUnit (e : LinkEntry) (st : SeqStep) (v : Value) :
    (e.afterUnit st v).reply .ok =
      { kind := replyKind e.request.kind.code, tagByte := e.tagByte,
        body := (e.afterUnit st v).replyBody .ok } := rfl

theorem LinkEntry.replyBody_afterUnit_of_read {e : LinkEntry} {address : Nat} {unit : UnitSize} {count : Nat}
    {mode : AddrMode} (h : e.request = .read address unit count mode) (st : SeqStep) (v : Value) :
    (e.afterUnit st v).replyBody .ok =
      0x00#8 :: be1 (e.done + 1) ++ ((e.results ++ st.result v).map UnitValue.toBytes).flatten := by
  simp only [LinkEntry.replyBody, LinkEntry.afterUnit, h]
  rfl

theorem LinkEntry.replyBody_afterUnit_of_write {e : LinkEntry} {address : Nat} {unit : UnitSize} {mode : AddrMode}
    {data : List Value} (h : e.request = .write address unit mode data) (st : SeqStep) (v : Value) :
    (e.afterUnit st v).replyBody .ok = 0x00#8 :: be1 (e.done + 1) := by
  simp only [LinkEntry.replyBody, LinkEntry.afterUnit, h]
  rfl

theorem LinkEntry.replyBody_afterUnit_of_sequence {e : LinkEntry} {steps : List SeqStep}
    (h : e.request = .sequence steps) (st : SeqStep) (v : Value) :
    (e.afterUnit st v).replyBody .ok =
      0x00#8 :: be1 (e.done + 1) ++ ((e.results ++ st.result v).map UnitValue.toBytes).flatten := by
  simp only [LinkEntry.replyBody, LinkEntry.afterUnit, h]
  rfl

/-- Settles O44: the last access of a request completes it OK with what it has read. -/
theorem readCompletes : Obligations.ReadCompletes := by
  refine ⟨?_, ?_, ?_⟩
  · intro s a turn tag e address unit count mode ready lines h hstate hturn hholder he hrequest hlastUnit hindex hready
      hdir
    have hwork : e.request.workAt e.done =
        some { op := .read, address := mode.unitAddress address unit e.done, unit := unit } := by
      rw [hrequest, LinkRequest.workAt, if_pos (by omega)]
    obtain ⟨t, hexec, hgone, hstored, hover⟩ := exec_accessEnd_completes lines h hstate hturn hholder he hready hwork
      hindex (SeqStep.not_differs_of_op (fun _ _ => by simp) _) (by rw [hrequest, LinkRequest.size, hlastUnit])
    rw [SeqStep.heldAfter_of_read rfl (show e.accessIndex < Lane.accesses _ unit by omega)] at hstored
    refine ⟨t, hexec, hgone, ?_, State.turnOver_of_read hover hdir⟩
    rw [LinkEntry.reply_afterUnit, LinkEntry.replyBody_afterUnit_of_read hrequest, hrequest, hlastUnit,
      LinkRequest.kind, show replyKind Kind.read.code = 0x90#8 by decide] at hstored
    exact hstored
  · intro s a turn tag e address unit mode data ready lines h hstate hturn hholder he hrequest hlastUnit hindex hready
    have hwork : e.request.workAt e.done =
        some { op := .write data[e.done], address := mode.unitAddress address unit e.done, unit := unit } := by
      rw [hrequest, LinkRequest.workAt, List.getElem?_eq_getElem (by omega)]
      rfl
    obtain ⟨t, hexec, hgone, hstored, hover⟩ := exec_accessEnd_completes lines h hstate hturn hholder he hready hwork
      hindex (SeqStep.not_differs_of_op (fun _ _ => by simp) _) (by rw [hrequest, LinkRequest.size, hlastUnit])
    refine ⟨t, hexec, hgone, ?_, hover⟩
    rw [LinkEntry.reply_afterUnit, LinkEntry.replyBody_afterUnit_of_write hrequest, hrequest, hlastUnit,
      LinkRequest.kind, show replyKind Kind.write.code = 0x91#8 by decide] at hstored
    exact hstored
  · intro s a turn tag e steps st ready lines h hstate hturn hholder he hrequest hstep hlastStep hready
    dsimp only
    intro hindex hsame
    have hwork : e.request.workAt e.done = some st := by rw [hrequest]; exact hstep
    obtain ⟨t, hexec, hgone, hstored, hover⟩ := exec_accessEnd_completes lines h hstate hturn hholder he hready hwork
      hindex hsame (by rw [hrequest, LinkRequest.size, hlastStep])
    refine ⟨t, hexec, hgone, ?_, hover⟩
    rw [LinkEntry.reply_afterUnit, LinkEntry.replyBody_afterUnit_of_sequence hrequest, hrequest, hlastStep,
      LinkRequest.kind, show replyKind Kind.sequence.code = 0x92#8 by decide] at hstored
    exact hstored

end Sys2Proof.Machine
end

section
/-! PROOFS. A deferred access of a link turn (R54 to R57): the request completes, waits with the bus held, or is
DEFERRED and its turn is over. -/

namespace Sys2Proof.Machine

theorem Profile.outcome_deferred (p : Profile) (ready : List Bool) : p.outcome ready true = .defer := by
  simp [Profile.outcome]

/-- One more retry is counted at each deferral (R54). -/
def LinkEntry.retried (e : LinkEntry) : LinkEntry := { e with retryCount := e.retryCount + 1 }

/-- The holder that may try again is DEFERRED until its backoff has passed (R55). -/
def LinkEntry.backingOff (e : LinkEntry) (time : Nat) : LinkEntry :=
  { e.retried with state := .deferred, retryTime := some time }

/-! ## The holder's part (R54, R56, R57, R63) -/

section
variable {s x : State} {e : LinkEntry} {turn : Turn} {lines : BusData}
include s

theorem State.linkTakes_exhausted (hwindows : x.windows = s.windows)
    (hlimit : (s.window e.window).fields.retryLimit < e.retryCount + 1) :
    x.linkTakes e turn .defer lines = x.stopWith e.retried .deferExhausted true := by
  simp only [State.linkTakes, State.deferral, State.window_congr hwindows, hlimit, if_true]
  rfl

theorem State.linkTakes_waits (hwindows : x.windows = s.windows)
    (hlimit : e.retryCount + 1 ≤ (s.window e.window).fields.retryLimit) (hsequence : e.request.isSequence = true) :
    x.linkTakes e turn .defer lines =
      { state := x.updateEntry e.retried, next := .wait, exhausted := false, notices := [] } := by
  simp only [State.linkTakes, State.deferral, State.window_congr hwindows, Nat.not_lt.mpr hlimit, hsequence, if_true,
    if_false]
  rfl

theorem State.linkTakes_deferred (hwindows : x.windows = s.windows) (hnow : x.now = s.now)
    (hlimit : e.retryCount + 1 ≤ (s.window e.window).fields.retryLimit) (hsequence : e.request.isSequence = false) :
    x.linkTakes e turn .defer lines =
      if e.stopRequested = true then x.stopWith e.retried .aborted false
      else if e.deadlinePassed s.now = true then x.stopWith e.retried .expired false
      else
        { state := x.updateEntry
            (e.backingOff (s.now + (s.window e.window).fields.retryBackoff * Config.perMicro)),
          next := .stop, exhausted := false, notices := [] } := by
  simp only [State.linkTakes, State.deferral, State.window_congr hwindows, hnow, Nat.not_lt.mpr hlimit, if_false,
    if_neg (show ¬ e.request.isSequence = true by simp [hsequence])]
  rfl

end

/-! ## The command -/

/-- A deferral that exhausts nothing moves no health machine (R85): the queue and the tracker are as the holder leaves
them. -/
theorem State.deliver_defer (s : State) (a : Access) (t : Turn) (lines : BusData)
    (hexhausted : (s.holderPart a t .defer lines).exhausted = false) :
    (s.deliver a t .defer lines).1.queue = (s.holderPart a t .defer lines).state.queue ∧
      ∀ v, (s.deliver a t .defer lines).1.window v = s.window v := by
  obtain ⟨x, hqueue, -, hxqueue, -, -⟩ := State.deliver_queue s a t .defer lines
  have hwindow := State.deliver_window s a t .defer lines
  rw [hexhausted] at hqueue hwindow
  refine ⟨hqueue.trans (by rw [← hxqueue]; exact x.judge_queue_of_ne_failure _ nofun), fun v => ?_⟩
  rw [hwindow]
  split
  · rename_i hv
    subst hv
    rfl
  · rfl

section
variable {s : State} {a : Access} {turn : Turn} {tag : Tag} {e : LinkEntry} (ready : List Bool) (lines : BusData)
  (h : s.phase = .running) (hstate : s.bus.state = .access a) (hturn : s.bus.turn = some turn)
  (hholder : turn.holder = .link tag) (he : s.entryOf tag = some e)
include h hstate hturn hholder he

/-- ACCESS_END with a deferral after which the request stays queued: the state before the turn waits or ends. -/
theorem exec_accessEnd_stays {e' : LinkEntry} {next : TurnNext} (htag : e'.tag = tag)
    (htakes : ∀ x : State, x.queue = s.queue → x.windows = s.windows → x.now = s.now →
      x.linkTakes e turn .defer lines =
        { state := x.updateEntry e', next := next, exhausted := false, notices := [] }) :
    ∃ d : State, exec (.accessEnd ready true lines) s =
        .next (s.transmit.chooseAfterEntry (d.continueTurn turn next)) ∧
      d.entryOf tag = some e' ∧ d.bus = { s.bus with gapRecord := a.gapAfter } ∧ ∀ v, d.window v = s.window v := by
  have hpart := State.holderPart_link (s := s.transmit) (a := a) .defer lines hholder (by simpa using he)
  rw [htakes _ (by simp) (by simp) (by simp)] at hpart
  obtain ⟨hqueue, hwindow⟩ := State.deliver_defer s.transmit a turn lines (by rw [hpart])
  obtain ⟨-, -, -, -, -, -, hbus, -, -, -, -, -, -, -, -, hnext⟩ := State.deliver_frame s.transmit a turn .defer lines
  rw [hpart] at hqueue hnext
  refine ⟨(s.transmit.deliver a turn .defer lines).1, ?_, ?_, by rw [hbus, State.transmit_bus], fun v => ?_⟩
  · rw [exec_accessEnd h, State.accessEnd_eq (a := a) (t := turn) (by simp [hstate]) (by simp [hturn]),
      Profile.outcome_deferred, hnext]
  · subst htag
    rw [State.entryOf_congr hqueue]
    exact State.updateEntry_entryOf (e := e) (by rw [State.entryOf_congr (s := s) (by simp), he])
  · rw [hwindow, State.transmit_window]

/-- The last retry is spent: the request completes DEFER_EXHAUSTED, which is counted and is a failure of its window
(R57, R85, R117). -/
theorem exec_accessEnd_exhausts (hwindow : a.window = e.window)
    (hlimit : (s.window e.window).fields.retryLimit < e.retryCount + 1) :
    ∃ t, exec (.accessEnd ready true lines) s = .next t ∧ t.entryOf tag = none ∧
      t.hasStored tag e.phase (e.reply .deferExhausted) ∧ s.turnOver t a ∧
      (t.statsOf e.window).tallies.exhausts = min ((s.statsOf e.window).tallies.exhausts + 1) 65535 ∧
      (t.statsOf e.window).counters.exhausts = min ((s.statsOf e.window).counters.exhausts + 1) 0xFFFFFFFF ∧
      (t.statsOf e.window).tallies.defers = min ((s.statsOf e.window).tallies.defers + 1) 65535 ∧
      (t.window e.window).health =
        ((s.window e.window).health.take (s.window e.window).fields.declareCount
          (s.window e.window).fields.clearCount .failure).1 := by
  obtain ⟨t, hexec, hgone, hstored, hover, htables, hexhausted⟩ := exec_accessEnd_stops (e' := e.retried)
    (ready := ready) (deferred := true) (lines := lines) h hstate hturn hholder he
    (show e.tag = tag from State.entryOf_tag he) fun x _ hwindows _ => by
      rw [Profile.outcome_deferred]
      exact State.linkTakes_exhausted hwindows hlimit
  obtain ⟨hwindowOf, hstatsOf⟩ := htables e.window
  rw [Profile.outcome_deferred] at hwindowOf hstatsOf hexhausted
  rw [State.deliver_window, hexhausted, if_pos hwindow, hwindow] at hwindowOf
  rw [State.deliver_statsOf, hexhausted, if_pos hwindow] at hstatsOf
  simp only [State.transmit_window, State.transmit_statsOf, if_true] at hwindowOf hstatsOf
  refine ⟨t, hexec, hgone, hstored, hover, ?_, ?_, ?_, ?_⟩
  · rw [hstatsOf]; rfl
  · rw [hstatsOf]; rfl
  · rw [hstatsOf]; rfl
  · rw [hwindowOf]; rfl

/-- A deferral that ends the turn of a READ or WRITE with tries left: a pending ABORT or a passed deadline completes the
request, else it is DEFERRED (R54, R55, R63). -/
theorem exec_accessEnd_defers (hsequence : e.request.isSequence = false) (hbus : e.request.isBus = true)
    (hlimit : e.retryCount + 1 ≤ (s.window e.window).fields.retryLimit) :
    ∃ t, exec (.accessEnd ready true lines) s = .next t ∧ s.turnOver t a ∧
      (e.stopRequested = true → t.entryOf tag = none ∧ t.hasStored tag e.phase (e.retried.reply .aborted)) ∧
      (e.stopRequested = false → e.deadlinePassed s.now = true →
        t.entryOf tag = none ∧ t.hasStored tag e.phase (e.retried.reply .expired)) ∧
      (e.stopRequested = false → e.deadlinePassed s.now = false →
        t.entryOf tag = some (e.backingOff (s.now + (s.window e.window).fields.retryBackoff * 50)) ∧
        t.blocked e.window = true ∧ t.window e.window = s.window e.window) := by
  have htag : e.tag = tag := State.entryOf_tag he
  have hstops : ∀ status : Status,
      (∀ x : State, x.queue = s.queue → x.windows = s.windows → x.now = s.now →
        x.linkTakes e turn .defer lines = x.stopWith e.retried status false) →
      ∃ t, exec (.accessEnd ready true lines) s = .next t ∧ t.entryOf tag = none ∧
        t.hasStored tag e.phase (e.retried.reply status) ∧ s.turnOver t a := fun status htakes => by
    obtain ⟨t, hexec, hgone, hstored, hover, -⟩ := exec_accessEnd_stops (e' := e.retried) (ready := ready)
      (deferred := true) (lines := lines) h hstate hturn hholder he htag (by rwa [Profile.outcome_deferred])
    exact ⟨t, hexec, hgone, hstored, hover⟩
  cases hstop : e.stopRequested with
  | true =>
    obtain ⟨t, hexec, hgone, hstored, hover⟩ := hstops .aborted fun x _ hwindows hnow => by
      rw [State.linkTakes_deferred hwindows hnow hlimit hsequence, if_pos hstop]
    exact ⟨t, hexec, hover, fun _ => ⟨hgone, hstored⟩, nofun, nofun⟩
  | false =>
    have hgoes : ¬ e.stopRequested = true := by simp [hstop]
    cases hpassed : e.deadlinePassed s.now with
    | true =>
      obtain ⟨t, hexec, hgone, hstored, hover⟩ := hstops .expired fun x _ hwindows hnow => by
        rw [State.linkTakes_deferred hwindows hnow hlimit hsequence, if_neg hgoes, if_pos hpassed]
      exact ⟨t, hexec, hover, nofun, fun _ _ => ⟨hgone, hstored⟩, nofun⟩
    | false =>
      obtain ⟨d, hexec, hentry, hdbus, hwindow⟩ := exec_accessEnd_stays
        (e' := e.backingOff (s.now + (s.window e.window).fields.retryBackoff * 50)) (next := .stop) ready lines h hstate
        hturn hholder he htag fun x _ hwindows hnow => by
          rw [State.linkTakes_deferred hwindows hnow hlimit hsequence, if_neg hgoes,
            if_neg (show ¬ e.deadlinePassed s.now = true by simp [hpassed])]
          rfl
      have hkept : (s.transmit.chooseAfterEntry (d.continueTurn turn .stop)).entryOf tag =
          some (e.backingOff (s.now + (s.window e.window).fields.retryBackoff * 50)) := by
        rw [State.chooseAfterEntry_entryOf, State.continueTurn, State.entryOf_congr (State.endTurn_queue _), hentry]
      refine ⟨_, hexec, State.turnOver_chooseAfterEntry rfl (State.endTurn_turnOver hdbus), nofun, nofun,
        fun _ _ => ⟨hkept, ?_, ?_⟩⟩
      · refine List.any_eq_true.mpr ⟨_, (State.entryOf_some hkept).2, ?_⟩
        simpa [LinkEntry.backingOff, LinkEntry.retried] using hbus
      · rw [State.chooseAfterEntry_window, State.continueTurn, State.window_congr (State.endTurn_windows _), hwindow]

/-- A SEQUENCE with tries left keeps the bus and waits out its backoff (R34, R56). -/
theorem exec_accessEnd_waits (hwindow : turn.window = e.window) (hsequence : e.request.isSequence = true)
    (hlimit : e.retryCount + 1 ≤ (s.window e.window).fields.retryLimit) :
    ∃ t, exec (.accessEnd ready true lines) s = .next t ∧
      t.bus.state = .retryWait ((s.window e.window).fields.retryBackoff * 50) ∧ t.bus.turn = some turn ∧
      t.bus.lendPending = s.bus.lendPending ∧ t.entryOf tag = some e.retried ∧ t.inUse e.window = true := by
  obtain ⟨d, hexec, hentry, hdbus, hdwindow⟩ := exec_accessEnd_stays (e' := e.retried) (next := .wait) ready lines h
    hstate hturn hholder he (show e.tag = tag from State.entryOf_tag he) fun x _ hwindows _ =>
      State.linkTakes_waits hwindows hlimit hsequence
  have hbus : (s.transmit.chooseAfterEntry (d.continueTurn turn .wait)).bus =
      { s.bus with gapRecord := a.gapAfter,
                   state := .retryWait ((s.window e.window).fields.retryBackoff * 50) } := by
    rw [State.chooseAfterEntry_bus, State.continueTurn, hdbus, hdwindow, hwindow]
    rfl
  refine ⟨_, hexec, by rw [hbus], by rw [hbus, hturn], by rw [hbus], ?_, ?_⟩
  · rw [State.chooseAfterEntry_entryOf, State.continueTurn]
    exact hentry
  · simp only [State.inUse, hbus, hturn, hwindow, decide_true, Bool.true_and]

end

/-- Settles O46: exhaustion, a pending ABORT, a passed deadline, and the two ways to try again. -/
theorem deferredAccess : Obligations.DeferredAccess := by
  refine ⟨?_, ?_, ?_⟩
  · intro s a turn tag e ready lines h hstate hturn hholder _ hwindow he hbus hsequence
    dsimp only
    by_cases hlimit : (s.window e.window).fields.retryLimit < e.retryCount + 1
    · obtain ⟨t, hexec, hgone, hstored, hover, hexhausts, -⟩ :=
        exec_accessEnd_exhausts ready lines h hstate hturn hholder he hwindow hlimit
      obtain ⟨-, hturn', hidle, -⟩ := hover
      exact ⟨t, hexec, ⟨fun _ => ⟨hgone, hstored, hexhausts⟩, fun hle => absurd hlimit (Nat.not_lt.mpr hle),
        fun hle => absurd hlimit (Nat.not_lt.mpr hle), fun hle => absurd hlimit (Nat.not_lt.mpr hle)⟩,
        fun hlend => ⟨(hidle hlend).1, hturn'⟩⟩
    · obtain ⟨t, hexec, hover, haborted, hexpired, hdeferred⟩ :=
        exec_accessEnd_defers ready lines h hstate hturn hholder he hsequence hbus (Nat.not_lt.mp hlimit)
      obtain ⟨-, hturn', hidle, -⟩ := hover
      exact ⟨t, hexec, ⟨fun hlt => absurd hlt hlimit, fun _ => haborted, fun _ => hexpired, fun _ => hdeferred⟩,
        fun hlend => ⟨(hidle hlend).1, hturn'⟩⟩
  · intro s a turn tag e ready lines h hstate hturn hholder hwindow he hsequence hlimit
    exact exec_accessEnd_waits ready lines h hstate hturn hholder he hwindow hsequence hlimit
  · intro s a turn tag e ready lines h hstate hturn hholder _ hwindow he _ hlimit
    exact exec_accessEnd_exhausts ready lines h hstate hturn hholder he hwindow hlimit

end Sys2Proof.Machine
end

section
/-! PROOFS. What ACCESS_END leaves in every block, and the end of a poll turn (R29, R104 to R112). -/

namespace Sys2Proof.Machine

/-! ## What a delivery leaves is left by ACCESS_END -/

/-- Off the bus and off the wire `t` is `d`. -/
structure State.LeftBy (t d : State) : Prop where
  phase : t.phase = d.phase
  lreq : t.lreq = d.lreq
  rate : t.rate = d.rate
  now : t.now = d.now
  windows : t.windows = d.windows
  queue : t.queue = d.queue
  linkGrants : t.linkGrants = d.linkGrants
  watch : t.watch = d.watch
  pollQueue : t.pollQueue = d.pollQueue
  pollTimer : t.pollTimer = d.pollTimer
  stats : t.stats = d.stats
  intervalNumber : t.intervalNumber = d.intervalNumber
  intervalTimer : t.intervalTimer = d.intervalTimer
  timing : t.timing = d.timing
  rx : t.rx = d.rx
  tags : t.tracker.tags = d.tracker.tags

/-- How the turn goes on is written on the bus, and the choice of the transmitter on the wire. -/
theorem State.afterAccess_keep {α : Type} {b d : State} {t : Turn} {next : TurnNext} (f : State → α)
    (hwire : ∀ x : State, f x.transmit = f x ∧ f x.deferTimer = f x) (hbus : ∀ x c, f { x with bus := c } = f x) :
    f (b.chooseAfterEntry (d.continueTurn t next)) = f d := by
  rw [State.continueTurn_eq, State.chooseAfterEntry_keep (hwire _).1 (hwire _).2, hbus]

theorem State.chooseAfterEntry_leftBy (b d : State) (t : Turn) (next : TurnNext) :
    (b.chooseAfterEntry (d.continueTurn t next)).LeftBy d where
  phase := State.afterAccess_keep State.phase (fun _ => ⟨by simp, rfl⟩) fun _ _ => rfl
  lreq := State.afterAccess_keep State.lreq (fun _ => ⟨by simp, rfl⟩) fun _ _ => rfl
  rate := State.afterAccess_keep State.rate (fun _ => ⟨by simp, rfl⟩) fun _ _ => rfl
  now := State.afterAccess_keep State.now (fun _ => ⟨by simp, rfl⟩) fun _ _ => rfl
  windows := State.afterAccess_keep State.windows (fun _ => ⟨by simp, rfl⟩) fun _ _ => rfl
  queue := State.afterAccess_keep State.queue (fun _ => ⟨by simp, rfl⟩) fun _ _ => rfl
  linkGrants := State.afterAccess_keep State.linkGrants (fun _ => ⟨by simp, rfl⟩) fun _ _ => rfl
  watch := State.afterAccess_keep State.watch (fun _ => ⟨by simp, rfl⟩) fun _ _ => rfl
  pollQueue := State.afterAccess_keep State.pollQueue (fun _ => ⟨by simp, rfl⟩) fun _ _ => rfl
  pollTimer := State.afterAccess_keep State.pollTimer (fun _ => ⟨by simp, rfl⟩) fun _ _ => rfl
  stats := State.afterAccess_keep State.stats (fun _ => ⟨by simp, rfl⟩) fun _ _ => rfl
  intervalNumber := State.afterAccess_keep State.intervalNumber (fun _ => ⟨by simp, rfl⟩) fun _ _ => rfl
  intervalTimer := State.afterAccess_keep State.intervalTimer (fun _ => ⟨by simp, rfl⟩) fun _ _ => rfl
  timing := State.afterAccess_keep State.timing (fun _ => ⟨by simp, rfl⟩) fun _ _ => rfl
  rx := State.afterAccess_keep State.rx (fun _ => ⟨by simp, rfl⟩) fun _ _ => rfl
  tags := State.afterAccess_keep (fun x => x.tracker.tags) (fun _ => ⟨by simp, rfl⟩) fun _ _ => rfl

/-- ACCESS_END leaves what its delivery leaves, with the turn going on as the holder says (R22, R29). -/
theorem exec_accessEnd_leaves {s : State} {a : Access} {turn : Turn} (h : s.phase = .running)
    (hstate : s.bus.state = .access a) (hturn : s.bus.turn = some turn) (ready : List Bool) (deferred : Bool)
    (lines : BusData) :
    ∃ t, exec (.accessEnd ready deferred lines) s = .next t ∧
      t.LeftBy (s.transmit.deliver a turn (a.profile.outcome ready deferred) lines).1 ∧
      t.bus =
        ((s.transmit.deliver a turn (a.profile.outcome ready deferred) lines).1.continueTurn turn
          (s.transmit.holderPart a turn (a.profile.outcome ready deferred) lines).next).bus := by
  refine ⟨_, exec_accessEnd h .., ?_⟩
  rw [State.accessEnd_eq (a := a) (t := turn) (by simp [hstate]) (by simp [hturn])]
  exact ⟨State.chooseAfterEntry_leftBy .., State.chooseAfterEntry_bus ..⟩

/-- Where the holder stops, the turn is over (R23). -/
theorem State.turnOver_of_stop {s t : State} {a : Access} {turn : Turn} {o : Outcome} {lines : BusData}
    (hbus : t.bus = ((s.transmit.deliver a turn o lines).1.continueTurn turn
      (s.transmit.holderPart a turn o lines).next).bus)
    (hstop : (s.transmit.holderPart a turn o lines).next = .stop) : s.turnOver t a := by
  obtain ⟨-, -, -, -, -, -, hdbus, -⟩ := s.transmit.deliver_frame a turn o lines
  have hover : s.turnOver (s.transmit.deliver a turn o lines).1.endTurn a :=
    State.endTurn_turnOver (by rw [hdbus, State.transmit_bus])
  rw [hstop, State.continueTurn] at hbus
  unfold State.turnOver at hover ⊢
  rwa [hbus]

end Sys2Proof.Machine
end

section
/-! PROOFS. The end of an access of a poll turn: the poll reads on, or the watch entry counts it, its request leaves the
poll queue and an OK value is judged (R104 to R112). -/

namespace Sys2Proof.Machine

/-! ## The watch entry (R107 to R112) -/

/-- A watch entry after a poll with this outcome, and what it reports of the value read (R107, R108). -/
def WatchEntry.polled (x : WatchEntry) (o : Outcome) (v : Value) : WatchEntry × WatchReport :=
  match o with
  | .ok => (x.countPoll .ok).evaluate v
  | .noReady => (x.countPoll .noReady, .none)
  | .defer => (x.countPoll .defer, .none)

/-- The end of a poll turn by the entry it leaves. -/
theorem State.pollEnds_eq (s : State) (id : WatchId) (x : WatchEntry) (o : Outcome) (v : Value) :
    s.pollEnds id x o v =
      { state := { s.setWatch id (some (x.polled o v).1) with pollQueue := s.pollQueue.filter (fun y => y ≠ id) },
        next := .stop, exhausted := false,
        notices := x.reportNotice id v (x.polled o v).2 } := by
  cases o with
  | ok =>
    have hconfig : ((x.countPoll .ok).evaluate v).1.config = x.config := WatchEntry.evaluate_config _ v
    simp only [State.pollEnds, WatchEntry.polled, WatchEntry.reportNotice, hconfig]
  | noReady => rfl
  | defer => rfl

/-- An evaluation writes the state and the stored value. -/
theorem WatchEntry.evaluate_eq (x : WatchEntry) (v : Value) :
    (x.evaluate v).1 = { x with state := (x.evaluate v).1.state, stored := (x.evaluate v).1.stored } := by
  unfold WatchEntry.evaluate
  split <;> rfl

/-- The counters take no part in an evaluation. -/
theorem WatchEntry.evaluate_countPoll (x : WatchEntry) (o : Outcome) (v : Value) :
    ((x.countPoll o).evaluate v).1.state = (x.evaluate v).1.state ∧
      ((x.countPoll o).evaluate v).1.stored = (x.evaluate v).1.stored ∧
      ((x.countPoll o).evaluate v).2 = (x.evaluate v).2 := by
  unfold WatchEntry.evaluate
  simp only [WatchEntry.countPoll]
  cases x.config.mode <;> exact ⟨rfl, rfl, rfl⟩

/-- Whatever its outcome, a poll is counted by the entry, whose request is no longer outstanding (R107). -/
theorem WatchEntry.polled_eq (x : WatchEntry) (o : Outcome) (v : Value) :
    (x.polled o v).1 =
      { x.countPoll o with state := (x.polled o v).1.state, stored := (x.polled o v).1.stored } := by
  cases o with
  | ok => exact WatchEntry.evaluate_eq _ v
  | noReady => rfl
  | defer => rfl

/-- What a poll leaves alone and what it counts (R107). -/
theorem WatchEntry.polled_counts (x : WatchEntry) (o : Outcome) (v : Value) :
    (x.polled o v).1.outstanding = false ∧ (x.polled o v).1.config = x.config ∧
      (x.polled o v).1.countdown = x.countdown ∧ (x.polled o v).1.overruns = x.overruns ∧
      (x.polled o v).1.pollsDone = min (x.pollsDone + 1) 0xFFFFFFFF ∧
      (x.polled o v).1.pollDeferrals =
        (if o = .defer then min (x.pollDeferrals + 1) 0xFFFFFFFF else x.pollDeferrals) ∧
      (x.polled o v).1.pollFaults = (if o = .noReady then min (x.pollFaults + 1) 0xFFFFFFFF else x.pollFaults) := by
  rw [WatchEntry.polled_eq]
  exact ⟨rfl, rfl, rfl, rfl, rfl, rfl, rfl⟩

/-! ## The holder's part -/

theorem State.holderTakes_poll {c : State} {turn : Turn} {id : WatchId} {x : WatchEntry} (o : Outcome)
    (lines : BusData) (hholder : turn.holder = .poll id) (hx : c.watchOf id = some x) :
    c.holderTakes turn o lines = c.pollTakes id x turn o lines := by
  simp only [State.holderTakes, hholder, hx]

/-- A poll takes the outcome in a state with the queue, the watch list, the poll queue and the windows of `s`. -/
theorem State.holderPart_poll {s : State} {turn : Turn} {id : WatchId} {x : WatchEntry} (a : Access) (o : Outcome)
    (lines : BusData) (hholder : turn.holder = .poll id) (hx : s.watchOf id = some x) :
    ∃ c : State, s.holderPart a turn o lines = c.pollTakes id x turn o lines ∧ c.queue = s.queue ∧
      c.watch = s.watch ∧ c.pollQueue = s.pollQueue ∧ c.windows = s.windows := by
  refine ⟨{ s with bus := { s.bus with gapRecord := a.gapAfter } }.countOutcome a.window o, ?_, rfl, rfl, rfl, rfl⟩
  exact State.holderTakes_poll o lines hholder ((State.watchOf_congr rfl id).trans hx)

theorem WatchConfig.gather_work {c : WatchConfig} {lane : Lane} {i : Nat} (hi : i < lane.accesses c.unit) (held : Value)
    (lines : BusData) : c.work.gather lane i held lines = held ||| (lane.piece c.unit c.address i).sample lines := by
  rw [SeqStep.gather_eq_heldAfter]
  exact SeqStep.heldAfter_of_read rfl hi held lines

/-- A poll that is OK before its last access reads on (R106). -/
theorem State.pollTakes_reads {s : State} {id : WatchId} {x : WatchEntry} {turn : Turn} {lines : BusData}
    (hmore : turn.pollIndex + 1 < (s.window turn.window).fields.lane.accesses x.config.unit) :
    s.pollTakes id x turn .ok lines =
      { state := s,
        next := .goOn
          { turn with
            pollIndex := turn.pollIndex + 1,
            pollHeld := turn.pollHeld |||
              ((s.window turn.window).fields.lane.piece x.config.unit x.config.address turn.pollIndex).sample lines },
        exhausted := false, notices := [] } := by
  unfold State.pollTakes
  dsimp only
  rw [if_pos (show turn.pollIndex + 1 < x.config.work.accesses _ from hmore),
    WatchConfig.gather_work (Nat.lt_of_succ_lt hmore)]

/-- A poll that is OK at its last access ends with the value read (R106, R107). -/
theorem State.pollTakes_ends {s : State} {id : WatchId} {x : WatchEntry} {turn : Turn} {lines : BusData}
    (hlast : turn.pollIndex + 1 = (s.window turn.window).fields.lane.accesses x.config.unit) :
    s.pollTakes id x turn .ok lines =
      s.pollEnds id x .ok (turn.pollHeld |||
        ((s.window turn.window).fields.lane.piece x.config.unit x.config.address turn.pollIndex).sample lines) := by
  unfold State.pollTakes
  dsimp only
  rw [if_neg (show ¬ turn.pollIndex + 1 < x.config.work.accesses _ by rw [hlast]; exact Nat.lt_irrefl _),
    WatchConfig.gather_work (by omega)]

/-- A poll that is not OK ends without a value (R107). -/
theorem State.pollTakes_fails (s : State) (id : WatchId) (x : WatchEntry) (turn : Turn) {o : Outcome} (ho : o ≠ .ok)
    (lines : BusData) : s.pollTakes id x turn o lines = s.pollEnds id x o 0 := by
  cases o with
  | ok => exact absurd rfl ho
  | noReady => rfl
  | defer => rfl

/-! ## The command -/

/-- The notices of both sorts are entered one sort after the other (R133). -/
theorem orderNotices_eq_or (n : Nat) (health watch : List NoticeContent) :
    orderNotices n health watch = health ++ watch ∨ orderNotices n health watch = watch ++ health := by
  unfold orderNotices
  split
  · exact .inl rfl
  · exact .inl (List.append_nil _).symm
  · split
    · exact .inr rfl
    · exact .inl rfl

theorem State.enterNotices_either {s : State} {u : NoticeUnit} {n : Nat} {health watch : List NoticeContent}
    (h : u = (s.enterNotices (orderNotices n health watch)).offWire.notices) :
    u = (s.enterNotices (health ++ watch)).offWire.notices ∨
      u = (s.enterNotices (watch ++ health)).offWire.notices := by
  rcases orderNotices_eq_or n health watch with horder | horder <;> rw [horder] at h
  · exact .inl h
  · exact .inr h

section
variable {s : State} {a : Access} {turn : Turn} {id : WatchId} {x : WatchEntry} (ready : List Bool) (lines : BusData)
  (h : s.phase = .running) (hstate : s.bus.state = .access a) (hturn : s.bus.turn = some turn)
  (hholder : turn.holder = .poll id) (hx : s.watchOf id = some x)
include h hstate hturn hholder hx

/-- A poll reads on in the same turn (R106). -/
theorem exec_accessEnd_pollReads (hready : (a.profile.strobeEnd ready).2 = true)
    (hmore : turn.pollIndex + 1 < (s.window turn.window).fields.lane.accesses x.config.unit) {v : Value}
    (hv : v = turn.pollHeld |||
      ((s.window turn.window).fields.lane.piece x.config.unit x.config.address turn.pollIndex).sample lines) :
    ∃ t, exec (.accessEnd ready false lines) s = .next t ∧ t.watch = s.watch ∧ t.pollQueue = s.pollQueue ∧
      s.accessing t { turn with pollIndex := turn.pollIndex + 1, pollHeld := v } turn.window
        { op := .read, address := x.config.address, unit := x.config.unit } (turn.pollIndex + 1) v := by
  obtain ⟨t, hexec, hleft, hbus⟩ := exec_accessEnd_leaves h hstate hturn ready false lines
  rw [Profile.outcome_ok hready] at hleft hbus
  obtain ⟨c, hpart, -, hcwatch, hcpolls, hcwindows⟩ :=
    State.holderPart_poll (s := s.transmit) a .ok lines hholder (by simpa using hx)
  have hlane : c.window turn.window = s.window turn.window := by
    rw [State.window_congr hcwindows, State.transmit_window]
  rw [State.pollTakes_reads (by rw [hlane]; exact hmore), hlane, ← hv] at hpart
  obtain ⟨-, -, -, -, -, -, hdbus, -, -, -, -, -, -, hwatch, hpolls, -⟩ := s.transmit.deliver_frame a turn .ok lines
  have hdwindow := s.transmit.deliver_window a turn .ok lines turn.window
  rw [hpart] at hbus hwatch hpolls
  generalize (s.transmit.deliver a turn .ok lines).1 = d at *
  have hdwatch : d.watch = s.watch := by rw [hwatch, hcwatch, State.transmit_watch]
  refine ⟨t, hexec, hleft.watch.trans hdwatch, by rw [hleft.pollQueue, hpolls, hcpolls, State.transmit_pollQueue], ?_⟩
  have hfields : (d.window turn.window).fields = (s.window turn.window).fields := by
    rw [hdwindow]
    split
    · rename_i hsame
      rw [hsame, State.transmit_window]
    · rw [State.transmit_window]
  have haccess := State.startNext_accessing (s := s) (x := d)
    (turn := { turn with pollIndex := turn.pollIndex + 1, pollHeld := v }) (st := x.config.work)
    (i := turn.pollIndex + 1) (held := v) hfields
    (by simp only [State.workOf, hholder, State.watchOf_congr hdwatch, hx, Option.map_some])
    (by rw [hdbus, State.transmit_bus])
  unfold State.accessing at haccess ⊢
  rw [hbus]
  exact haccess

/-- A poll ends: the entry is the polled one, its request has left the poll queue, the turn is over, and the notices
are those of the window's health and of the entry (R107 to R112). -/
theorem exec_accessEnd_pollEnds {deferred : Bool} {v : Value}
    (hends : ∀ y : State, y.windows = s.windows →
      y.pollTakes id x turn (a.profile.outcome ready deferred) lines =
        y.pollEnds id x (a.profile.outcome ready deferred) v) :
    ∃ t, exec (.accessEnd ready deferred lines) s = .next t ∧
      t.watchOf id = some (x.polled (a.profile.outcome ready deferred) v).1 ∧
      (∀ other : WatchId, other ≠ id → t.watchOf other = s.watchOf other) ∧
      t.pollQueue = s.pollQueue.filter (fun z => z ≠ id) ∧ t.queue.length ≤ s.queue.length ∧ s.turnOver t a ∧
      t.offWire.notices =
        (s.enterNotices (orderNotices s.freeCount (s.healthNotices t a.window)
          (x.reportNotice id v (x.polled (a.profile.outcome ready deferred) v).2))).offWire.notices := by
  obtain ⟨t, hexec, hleft, hbus⟩ := exec_accessEnd_leaves h hstate hturn ready deferred lines
  obtain ⟨t', hexec', hnotices⟩ := exec_accessEnd_notices h hstate hturn ready deferred lines
  obtain rfl : t = t' := by
    rw [hexec] at hexec'
    cases hexec'
    rfl
  generalize a.profile.outcome ready deferred = o at *
  obtain ⟨c, hpart, hcqueue, hcwatch, hcpolls, hcwindows⟩ :=
    State.holderPart_poll (s := s.transmit) a o lines hholder (by simpa using hx)
  rw [hends c (by rw [hcwindows, State.transmit_windows]), State.pollEnds_eq] at hpart
  obtain ⟨-, -, -, -, -, -, -, -, -, -, -, -, -, hwatch, hpolls, -⟩ := s.transmit.deliver_frame a turn o lines
  obtain ⟨y, hqueue, -, hyqueue, -⟩ := s.transmit.deliver_queue a turn o lines
  obtain ⟨p, hfilter⟩ := y.judge_queue_filter a.window (accessInput o (s.transmit.holderPart a turn o lines).exhausted)
  have hover : s.turnOver t a := State.turnOver_of_stop hbus (by rw [hpart])
  rw [hpart] at hwatch hpolls hyqueue hnotices
  have hwatchOf : ∀ other, t.watchOf other =
      if id = other then some (x.polled o v).1 else s.watchOf other := fun other => by
    rw [State.watchOf_congr (hleft.watch.trans hwatch)]
    refine (State.watchOf_setWatch c id other _).trans ?_
    rw [State.watchOf_congr hcwatch, State.transmit_watchOf]
  refine ⟨t, hexec, by rw [hwatchOf, if_pos rfl], fun other hne => by rw [hwatchOf, if_neg (Ne.symm hne)], ?_, ?_,
    hover, hnotices⟩
  · rw [hleft.pollQueue, hpolls]
    dsimp only
    rw [hcpolls, State.transmit_pollQueue]
  · rw [hleft.queue, hqueue, hfilter, hyqueue]
    refine le_trans (List.length_filter_le _ _) (le_of_eq (congrArg List.length ?_))
    exact hcqueue.trans (State.transmit_queue s)

end

/-- Settles O48: a poll reads on, or it is over with what its outcome makes of the entry. -/
theorem pollTurnEnds : Obligations.PollTurnEnds := by
  refine ⟨fun s a turn id x ready lines h hstate hturn hholder hx hready hmore =>
    exec_accessEnd_pollReads ready lines h hstate hturn hholder hx hready hmore rfl, ?_⟩
  intro s a turn id x ready deferred lines h hstate hturn hholder hx hends
  dsimp only
  generalize hv : turn.pollHeld |||
    ((s.window turn.window).fields.lane.piece x.config.unit x.config.address turn.pollIndex).sample lines = v
  cases deferred with
  | true =>
    have ho := a.profile.outcome_deferred ready
    obtain ⟨t, hexec, hentry, hothers, hpolls, hqueue, hover, hnotices⟩ :=
      exec_accessEnd_pollEnds ready lines h hstate hturn hholder hx fun y _ =>
        y.pollTakes_fails id x turn (by rw [ho]; exact nofun) lines
    rw [ho] at hentry hnotices
    obtain ⟨houtstanding, hconfig, hcountdown, hoverruns, hdone, hdeferrals, hfaults⟩ := x.polled_counts .defer 0
    refine ⟨t, _, hexec, hentry, hothers, hpolls, houtstanding, hconfig, hcountdown, hoverruns, hdone, hdeferrals,
      hfaults, fun _ => ⟨rfl, rfl⟩, nofun, hqueue, hover, ?_⟩
    rw [if_pos (.inl rfl)]
    exact State.enterNotices_either hnotices
  | false =>
    cases hready : (a.profile.strobeEnd ready).2 with
    | false =>
      have ho : a.profile.outcome ready false = .noReady := by simp [Profile.outcome, hready]
      obtain ⟨t, hexec, hentry, hothers, hpolls, hqueue, hover, hnotices⟩ :=
        exec_accessEnd_pollEnds ready lines h hstate hturn hholder hx fun y _ =>
          y.pollTakes_fails id x turn (by rw [ho]; exact nofun) lines
      rw [ho] at hentry hnotices
      obtain ⟨houtstanding, hconfig, hcountdown, hoverruns, hdone, hdeferrals, hfaults⟩ := x.polled_counts .noReady 0
      refine ⟨t, _, hexec, hentry, hothers, hpolls, houtstanding, hconfig, hcountdown, hoverruns, hdone, hdeferrals,
        hfaults, fun _ => ⟨rfl, rfl⟩, nofun, hqueue, hover, ?_⟩
      rw [if_pos (.inr rfl)]
      exact State.enterNotices_either hnotices
    | true =>
      have hlast : turn.pollIndex + 1 = (s.window turn.window).fields.lane.accesses x.config.unit := by simp_all
      have ho := Profile.outcome_ok hready
      obtain ⟨t, hexec, hentry, hothers, hpolls, hqueue, hover, hnotices⟩ :=
        exec_accessEnd_pollEnds (v := v) ready lines h hstate hturn hholder hx fun y hwindows => by
          have hlane := State.window_congr hwindows turn.window
          rw [ho, State.pollTakes_ends (by rw [hlane, hlast]), hlane, hv]
      rw [ho] at hentry hnotices
      obtain ⟨houtstanding, hconfig, hcountdown, hoverruns, hdone, hdeferrals, hfaults⟩ := x.polled_counts .ok v
      obtain ⟨hstateOf, hstored, hreport⟩ := x.evaluate_countPoll .ok v
      refine ⟨t, _, hexec, hentry, hothers, hpolls, houtstanding, hconfig, hcountdown, hoverruns, hdone, hdeferrals,
        hfaults, by simp, fun _ _ => ⟨hstateOf, hstored⟩, hqueue, hover, ?_⟩
      rw [if_neg (by simp)]
      rw [WatchEntry.polled, hreport] at hnotices
      generalize (x.evaluate v).2 = report at hnotices ⊢
      cases report <;> exact State.enterNotices_either hnotices

end Sys2Proof.Machine
end

section
/-! PROOFS. What an access outcome counts and what it leaves alone (R23, R29, R38, R64, R85, R117). -/

namespace Sys2Proof.Machine

/-! ## What the holder leaves alone -/

/-- A turn that no poll holds leaves the watch list and the poll queue alone. -/
theorem State.holderTakes_polls {s : State} {t : Turn} (h : ∀ id, t.holder ≠ .poll id) (o : Outcome) (lines : BusData) :
    (s.holderTakes t o lines).state.watch = s.watch ∧ (s.holderTakes t o lines).state.pollQueue = s.pollQueue := by
  unfold State.holderTakes
  split
  · split
    · exact ⟨rfl, rfl⟩
    · rename_i e _
      obtain ⟨e', ⟨status, hstate⟩ | hstate, -⟩ := s.linkTakes_state e t o lines <;> rw [hstate]
      · simp
      · exact ⟨rfl, rfl⟩
  · exact absurd ‹_› (h _)
  · exact ⟨rfl, rfl⟩

/-- An outcome touches the holder's entry and its tag only: every other entry stays in place, every other tag as it
is. -/
structure State.HolderOnly (s t : State) (holder : Holder) : Prop where
  stays : ∀ e ∈ s.queue, holder ≠ .link e.tag → e ∈ t.queue
  tags : (t.queue.map LinkEntry.tag).Sublist (s.queue.map LinkEntry.tag)
  tagOf : ∀ u : Tag, holder ≠ .link u → t.tagOf u = s.tagOf u

theorem State.holderOnly_of_eq {s t : State} {holder : Holder} (hqueue : t.queue = s.queue)
    (htracker : t.tracker = s.tracker) : s.HolderOnly t holder :=
  ⟨fun e he _ => hqueue ▸ he, by rw [hqueue], fun u _ => State.tagOf_congr (by rw [htracker]) u⟩

theorem State.holderOnly_complete (s : State) (e : LinkEntry) (status : Status) :
    s.HolderOnly (s.complete e status) (.link e.tag) := by
  refine ⟨fun x hx hne => ?_, ?_, fun u hne => ?_⟩
  · rw [State.complete_queue]
    exact List.mem_filter.mpr ⟨hx, by simpa using fun htag => hne (by rw [htag])⟩
  · rw [State.complete_queue]
    exact List.filter_sublist.map _
  · rw [State.complete_tagOf, if_neg fun htag => hne (by rw [htag])]

theorem State.holderOnly_updateEntry (s : State) (e : LinkEntry) : s.HolderOnly (s.updateEntry e) (.link e.tag) := by
  refine ⟨fun x hx hne => ?_, by rw [State.updateEntry_tags], fun u _ => State.tagOf_congr rfl u⟩
  exact List.mem_map.mpr ⟨x, hx, if_neg fun htag => hne (by rw [htag])⟩

theorem State.holderTakes_only (s : State) (t : Turn) (o : Outcome) (lines : BusData) :
    s.HolderOnly (s.holderTakes t o lines).state t.holder := by
  have hsame : s.HolderOnly s t.holder := State.holderOnly_of_eq rfl rfl
  unfold State.holderTakes
  dsimp only
  split
  · rename_i tag htag
    split
    · exact hsame
    · rename_i e he
      have htaken := s.linkTakes_taken e t o lines
      rw [htag, ← State.entryOf_tag he]
      generalize s.linkTakes e t o lines = r at htaken
      cases htaken with
      | completes same => exact same.tag ▸ s.holderOnly_complete _ _
      | goesOn same => exact same.tag ▸ s.holderOnly_updateEntry _
      | waits same => exact same.tag ▸ s.holderOnly_updateEntry _
      | defers same => exact same.tag ▸ s.holderOnly_updateEntry _
  · split
    · exact hsame
    · obtain ⟨hqueue, htracker⟩ := s.pollTakes_queue _ ‹WatchEntry› t o lines
      exact State.holderOnly_of_eq hqueue htracker
  · exact hsame

/-! ## What a health input leaves alone (R64) -/

/-- With one entry for each tag, an entry that no flush takes stays. -/
theorem State.mem_judge_queue {s : State} (hnodup : (s.queue.map LinkEntry.tag).Nodup) {w : WinId} {e : LinkEntry}
    (he : e ∈ s.queue) (hstays : e.flushedBy w = false) (input : HealthInput) : e ∈ (s.judge w input).1.queue := by
  unfold State.judge
  dsimp only
  split
  · exact he
  · simp only [State.flush, State.completeAll_queue]
    refine List.mem_filter.mpr ⟨he, List.all_eq_true.mpr fun x hx => ?_⟩
    obtain ⟨hx, hflushed⟩ := List.mem_filter.mp hx
    simp only [decide_eq_true_eq]
    intro htag
    rw [List.inj_on_of_nodup_map hnodup he hx htag, hflushed] at hstays
    cases hstays
  · exact he

/-- A tag without an entry is untouched. -/
theorem State.judge_tagOf {s : State} {u : Tag} (hnone : ∀ e ∈ s.queue, e.tag ≠ u) (w : WinId) (input : HealthInput) :
    (s.judge w input).1.tagOf u = s.tagOf u := by
  unfold State.judge
  dsimp only
  split
  · rfl
  · exact State.completeAll_tagOf_of_not_mem _ _ _ u fun e he => hnone e (List.mem_of_mem_filter he)
  · rfl

/-- Without a declaration nothing is flushed (R64, R87). -/
theorem State.judge_of_not_declared {s : State} {w : WinId} {input : HealthInput}
    (h : ((s.window w).health.take (s.window w).fields.declareCount (s.window w).fields.clearCount input).2 ≠
      .declared) : (s.judge w input).1.queue = s.queue ∧ (s.judge w input).1.tracker = s.tracker := by
  unfold State.judge
  dsimp only
  split
  · exact ⟨rfl, rfl⟩
  · exact absurd ‹_› h
  · exact ⟨rfl, rfl⟩

/-! ## The delivery -/

/-- Entries other than the holder and the flushed ones stay (R64). -/
theorem State.mem_deliver_queue {s : State} (hnodup : (s.queue.map LinkEntry.tag).Nodup) {a : Access} {t : Turn}
    {e : LinkEntry} (he : e ∈ s.queue) (hholder : t.holder ≠ .link e.tag) (hstays : e.flushedBy a.window = false)
    (o : Outcome) (lines : BusData) : e ∈ (s.deliver a t o lines).1.queue := by
  obtain ⟨x, hqueue, -, hxqueue, -, -⟩ := s.deliver_queue a t o lines
  obtain ⟨hkept, htags, -⟩ := State.holderTakes_only
    ({ s with bus := { s.bus with gapRecord := a.gapAfter } }.countOutcome a.window o) t o lines
  change ∀ e ∈ s.queue, _ → e ∈ (s.holderPart a t o lines).state.queue at hkept
  change ((s.holderPart a t o lines).state.queue.map LinkEntry.tag).Sublist _ at htags
  rw [hqueue]
  rw [← hxqueue] at hkept htags
  exact State.mem_judge_queue (hnodup.sublist htags) (hkept e he hholder) hstays _

/-- A tag without an entry that does not hold the turn is untouched. -/
theorem State.deliver_tagOf {s : State} {a : Access} {t : Turn} {u : Tag} (hholder : t.holder ≠ .link u)
    (hnone : ∀ e ∈ s.queue, e.tag ≠ u) (o : Outcome) (lines : BusData) :
    (s.deliver a t o lines).1.tagOf u = s.tagOf u := by
  obtain ⟨x, -, htracker, hxqueue, hxtracker, -⟩ := s.deliver_queue a t o lines
  obtain ⟨-, htags, htagOf⟩ := State.holderTakes_only
    ({ s with bus := { s.bus with gapRecord := a.gapAfter } }.countOutcome a.window o) t o lines
  change ((s.holderPart a t o lines).state.queue.map LinkEntry.tag).Sublist (s.queue.map LinkEntry.tag) at htags
  have hxnone : ∀ e ∈ x.queue, e.tag ≠ u := fun e he htag => by
    rw [hxqueue] at he
    obtain ⟨y, hy, hytag⟩ := List.mem_map.mp (htags.subset (List.mem_map_of_mem he))
    exact hnone y hy (hytag.trans htag)
  calc (s.deliver a t o lines).1.tagOf u
      = (x.judge a.window _).1.tagOf u := State.tagOf_congr (by rw [htracker]) u
    _ = x.tagOf u := State.judge_tagOf hxnone _ _
    _ = (s.holderPart a t o lines).state.tagOf u := State.tagOf_congr (by rw [hxtracker]) u
    _ = s.tagOf u := htagOf u hholder

/-- The share of a dropped holder is discarded, and its turn stops (R29, R38). -/
theorem State.holderPart_dropped {s : State} {t : Turn} (h : t.holder = .dropped) (a : Access) (o : Outcome)
    (lines : BusData) :
    (s.holderPart a t o lines).next = .stop ∧ (s.holderPart a t o lines).state.queue = s.queue ∧
      (s.holderPart a t o lines).state.tracker = s.tracker := by
  unfold State.holderPart State.holderTakes
  simp only [h]
  exact ⟨trivial, rfl, rfl⟩

/-- With a dropped holder only a flush lets entries leave. -/
theorem State.deliver_dropped {s : State} {t : Turn} (h : t.holder = .dropped) (a : Access) (o : Outcome)
    (lines : BusData) :
    (∀ e ∈ (s.deliver a t o lines).1.queue, e ∈ s.queue) ∧
      ((s.window a.window).health.state = .failed ∨
          ((s.deliver a t o lines).1.window a.window).health.state ≠ .failed →
        (s.deliver a t o lines).1.queue = s.queue ∧
          (s.deliver a t o lines).1.tracker.tags = s.tracker.tags) := by
  obtain ⟨x, hqueue, htracker, hxqueue, hxtracker, hxwindows⟩ := s.deliver_queue a t o lines
  obtain ⟨-, hheldQueue, hheldTracker⟩ := State.holderPart_dropped h a o lines
  refine ⟨fun e he => ?_, fun hhealth => ?_⟩
  · rw [hqueue] at he
    rw [← hheldQueue, ← hxqueue]
    exact (State.judge_queue he).1
  · rw [State.deliver_window, if_pos rfl] at hhealth
    have hdeclared : ((x.window a.window).health.take (x.window a.window).fields.declareCount
        (x.window a.window).fields.clearCount (accessInput o (s.holderPart a t o lines).exhausted)).2 ≠ .declared := by
      rw [State.window_congr hxwindows]
      intro hdeclared
      obtain ⟨hbefore, hafter⟩ := (Health.take_declared _ _ _ _).mp hdeclared
      exact hhealth.elim hbefore (absurd hafter)
    obtain ⟨hjqueue, hjtracker⟩ := State.judge_of_not_declared hdeclared
    exact ⟨by rw [hqueue, hjqueue, hxqueue, hheldQueue], by rw [htracker, hjtracker, hxtracker, hheldTracker]⟩

/-! ## The address lines (R41) -/

/-- The last address is that of the access in progress, or else `last`. -/
def Bus.AddressFollows (b : Bus) (last : Nat) : Prop :=
  (∀ c, b.state = .access c → b.lastAddress = c.address) ∧ ((∀ c, b.state ≠ .access c) → b.lastAddress = last)

theorem State.endTurn_lastAddress (s : State) : s.endTurn.bus.lastAddress = s.bus.lastAddress := by
  unfold State.endTurn State.takeLend
  repeat' split
  all_goals rfl

theorem State.endTurn_addressFollows (s : State) : s.endTurn.bus.AddressFollows s.bus.lastAddress :=
  ⟨fun c hc => absurd hc (s.endTurn_state_ne_access c), fun _ => s.endTurn_lastAddress⟩

theorem State.startNext_addressFollows (s : State) (t : Turn) :
    (s.startNext t).bus.AddressFollows s.bus.lastAddress := by
  unfold State.startNext
  split
  · exact s.endTurn_addressFollows
  · refine ⟨fun c hc => ?_, fun hnone => absurd rfl (hnone _)⟩
    rw [← BusState.access.inj hc]
    rfl

theorem State.continueTurn_addressFollows (s : State) (t : Turn) (next : TurnNext) :
    (s.continueTurn t next).bus.AddressFollows s.bus.lastAddress := by
  cases next with
  | goOn t' => exact s.startNext_addressFollows t'
  | wait => exact ⟨nofun, fun _ => rfl⟩
  | stop => exact s.endTurn_addressFollows

/-! ## Counting (R85, R86, R117) -/

section
variable (s : State) (a : Access) (t : Turn) (lines : BusData)

theorem State.holderPart_not_exhausted {o : Outcome} (ho : o ≠ .defer) :
    (s.holderPart a t o lines).exhausted = false :=
  Bool.eq_false_iff.mpr fun hexhausted => ho (State.holderPart_exhausted hexhausted)

theorem State.deliver_counts_ok :
    ((s.deliver a t .ok lines).1.statsOf a.window).tallies.ok = min ((s.statsOf a.window).tallies.ok + 1) 65535 ∧
      ((s.deliver a t .ok lines).1.statsOf a.window).counters.okAccesses =
        min ((s.statsOf a.window).counters.okAccesses + 1) 0xFFFFFFFF ∧
      ((s.deliver a t .ok lines).1.statsOf a.window).tallies.faults = (s.statsOf a.window).tallies.faults ∧
      ((s.deliver a t .ok lines).1.window a.window).health =
        ((s.window a.window).health.take (s.window a.window).fields.declareCount
          (s.window a.window).fields.clearCount .success).1 := by
  rw [State.deliver_statsOf, State.deliver_window, if_pos rfl, if_pos rfl,
    State.holderPart_not_exhausted s a t lines (o := .ok) nofun]
  exact ⟨rfl, rfl, rfl, rfl⟩

theorem State.deliver_counts_noReady :
    ((s.deliver a t .noReady lines).1.statsOf a.window).tallies.faults =
        min ((s.statsOf a.window).tallies.faults + 1) 65535 ∧
      ((s.deliver a t .noReady lines).1.statsOf a.window).counters.faults =
        min ((s.statsOf a.window).counters.faults + 1) 0xFFFFFFFF ∧
      ((s.deliver a t .noReady lines).1.statsOf a.window).tallies.ok = (s.statsOf a.window).tallies.ok ∧
      ((s.deliver a t .noReady lines).1.window a.window).health =
        ((s.window a.window).health.take (s.window a.window).fields.declareCount
          (s.window a.window).fields.clearCount .failure).1 := by
  rw [State.deliver_statsOf, State.deliver_window, if_pos rfl, if_pos rfl,
    State.holderPart_not_exhausted s a t lines (o := .noReady) nofun]
  exact ⟨rfl, rfl, rfl, rfl⟩

/-- A deferral is counted whether it exhausts its request or not. -/
theorem State.deliver_counts_defer :
    ((s.deliver a t .defer lines).1.statsOf a.window).tallies.defers =
        min ((s.statsOf a.window).tallies.defers + 1) 65535 ∧
      ((s.deliver a t .defer lines).1.statsOf a.window).counters.defers =
        min ((s.statsOf a.window).counters.defers + 1) 0xFFFFFFFF ∧
      ((s.deliver a t .defer lines).1.statsOf a.window).tallies.ok = (s.statsOf a.window).tallies.ok := by
  rw [State.deliver_statsOf, if_pos rfl]
  cases (s.holderPart a t .defer lines).exhausted <;> exact ⟨rfl, rfl, rfl⟩

theorem State.deliver_ring (o : Outcome) :
    ((s.deliver a t o lines).1.statsOf a.window).ring = (s.statsOf a.window).ring := by
  rw [State.deliver_statsOf, if_pos rfl]
  cases (s.holderPart a t o lines).exhausted <;> cases o <;> rfl

end

/-- An entry that the clause of R64 spares is taken by no flush of the window. -/
theorem LinkEntry.not_flushedBy {e : LinkEntry} {w : WinId}
    (h : e.request.isBus = false ∨ e.window ≠ w ∨ e.force = true ∨ e.state = .active) : e.flushedBy w = false := by
  rcases h with h | h | h | h <;> simp [LinkEntry.flushedBy, h]

/-- Settles O43: the delivery, block by block. -/
theorem accessOutcomeCounts : Obligations.AccessOutcomeCounts := by
  intro s a turn ready deferred lines h hstate hturn
  obtain ⟨t, hexec, hleft, hbus⟩ := exec_accessEnd_leaves h hstate hturn ready deferred lines
  have hwindow : ∀ v, t.window v =
      (s.transmit.deliver a turn (a.profile.outcome ready deferred) lines).1.window v :=
    State.window_congr hleft.windows
  have hstats : ∀ v, t.statsOf v =
      (s.transmit.deliver a turn (a.profile.outcome ready deferred) lines).1.statsOf v :=
    State.statsOf_congr hleft.stats
  obtain ⟨hphase, hlreq, hrate, hpollTimer, hintervalTimer, hnow, hdbus, hgrants, hnumber, htiming, hrx, -, -, hwatch,
    hpolls, -⟩ := s.transmit.deliver_frame a turn (a.profile.outcome ready deferred) lines
  have hother : (∀ id, turn.holder ≠ .poll id) → t.watch = s.watch ∧ t.pollQueue = s.pollQueue := fun hholder => by
    obtain ⟨hheldWatch, hheldPolls⟩ : (s.transmit.holderPart a turn _ lines).state.watch = s.transmit.watch ∧
        (s.transmit.holderPart a turn _ lines).state.pollQueue = s.transmit.pollQueue :=
      State.holderTakes_polls hholder (a.profile.outcome ready deferred) lines
    exact ⟨by rw [hleft.watch, hwatch, hheldWatch, State.transmit_watch],
      by rw [hleft.pollQueue, hpolls, hheldPolls, State.transmit_pollQueue]⟩
  refine ⟨t, hexec, fun v hv => ?_, ?_, ?_, fun hdeferred hready => ?_, fun hdeferred hready => ?_, fun hdeferred => ?_,
    ?_, hother, fun hnodup e he hholder hspared => ?_, fun u hholder hnone => ?_, fun hdropped => ?_, ?_⟩
  · rw [hstats, hwindow, State.deliver_statsOf, State.deliver_window, if_neg (Ne.symm hv), if_neg (Ne.symm hv)]
    simp
  · rw [hwindow, State.deliver_window, if_pos rfl]
    simp
  · rw [hwindow, State.deliver_window, if_pos rfl]
    simp
  · subst hdeferred
    rw [hstats, hwindow, Profile.outcome_ok hready]
    simpa using s.transmit.deliver_counts_ok a turn lines
  · subst hdeferred
    rw [hstats, hwindow, show a.profile.outcome ready false = .noReady by simp [Profile.outcome, hready]]
    simpa using s.transmit.deliver_counts_noReady a turn lines
  · subst hdeferred
    rw [hstats, Profile.outcome_deferred]
    simpa using s.transmit.deliver_counts_defer a turn lines
  · rw [hstats, State.deliver_ring, State.transmit_statsOf]
  · rw [hleft.queue]
    exact State.mem_deliver_queue (by simpa using hnodup) (by simpa using he) hholder
      (LinkEntry.not_flushedBy hspared) _ _
  · rw [State.tagOf_congr hleft.tags, State.deliver_tagOf hholder (by simpa using hnone), State.transmit_tagOf]
  · obtain ⟨hsubset, hunflushed⟩ :=
      State.deliver_dropped (s := s.transmit) hdropped a (a.profile.outcome ready deferred) lines
    obtain ⟨hstop, -⟩ :=
      State.holderPart_dropped (s := s.transmit) hdropped a (a.profile.outcome ready deferred) lines
    obtain ⟨hsameWatch, hsamePolls⟩ := hother (by simp [hdropped])
    refine ⟨State.turnOver_of_stop hbus hstop, hsameWatch, hsamePolls, fun e he => ?_, fun hhealth => ?_⟩
    · rw [hleft.queue] at he
      simpa using hsubset e he
    · rw [hleft.queue, hleft.tags]
      simpa using hunflushed (by rwa [hwindow, ← State.transmit_window s] at hhealth)
  · refine ⟨by rw [hleft.phase, hphase, State.transmit_phase], by rw [hleft.lreq, hlreq, State.transmit_lreq],
      by rw [hleft.rate, hrate, State.transmit_rate], by rw [hleft.now, hnow, State.transmit_now],
      by rw [hleft.pollTimer, hpollTimer, State.transmit_pollTimer],
      by rw [hleft.intervalTimer, hintervalTimer, State.transmit_intervalTimer],
      by rw [hleft.linkGrants, hgrants, State.transmit_linkGrants],
      by rw [hleft.timing, htiming, State.transmit_timing],
      by rw [hleft.intervalNumber, hnumber, State.transmit_intervalNumber],
      by rw [hleft.rx, hrx, State.transmit_rx], ?_⟩
    obtain ⟨haccess, hrest⟩ := State.continueTurn_addressFollows
      (s.transmit.deliver a turn (a.profile.outcome ready deferred) lines).1 turn
      (s.transmit.holderPart a turn (a.profile.outcome ready deferred) lines).next
    rw [← hbus] at haccess hrest
    rw [hdbus, State.transmit_bus] at hrest
    cases hbusState : t.bus.state with
    | access c => exact haccess c hbusState
    | _ => exact hrest (by simp [hbusState])

end Sys2Proof.Machine
end

section
/-! PROOFS. WATCH_DROP frees its entry with its poll request, and one-byte bodies are read with their checks (R39, R100,
R146, R170). -/

namespace Sys2Proof.Machine

/-! ## Bodies of one byte (R170) -/

theorem readWatchId_badLength {body : List Byte} (h : body.length ≠ 1) (tagOk : Bool) :
    readWatchId tagOk body = .error .badLength := if_neg h

theorem readWindow_badLength {body : List Byte} (h : body.length ≠ 1) (tagOk : Bool) :
    readWindow tagOk body = .error .badLength := if_neg h

/-- A tag byte that its kind does not allow is a bad field, whatever the id (R170). -/
theorem readWatchId_badTag {body : List Byte} (h : body.length = 1) : readWatchId false body = .error .badField := by
  rw [readWatchId, ofLength, if_pos h]
  split <;> rfl

theorem readWindow_badTag {body : List Byte} (h : body.length = 1) : readWindow false body = .error .badField := by
  rw [readWindow, ofLength, if_pos h]
  split <;> rfl

theorem readWatchId_badId {n : Byte} (h : 31 < n.toNat) (tagOk : Bool) : readWatchId tagOk [n] = .error .badField := by
  rw [readWatchId, fieldAt_singleton, watchId?_of_le (by omega)]
  rfl

/-! ## WATCH_DROP at the tracker (R100) -/

theorem State.take_watchDrop (s : State) (tagByte : Byte) (body : List Byte) (prior : LinkState) :
    s.take Kind.watchDrop.code tagByte body prior =
      s.tagged .watchDrop tagByte fun t x =>
        x.newWatchDrop t tagByte (readWatchId (plainTagByte tagByte) body) := by
  rw [State.take, Kind.ofByte?_code]
  rfl

theorem State.take_countersClear (s : State) (tagByte : Byte) (body : List Byte) (prior : LinkState) :
    s.take Kind.countersClear.code tagByte body prior =
      s.tagged .countersClear tagByte fun t x =>
        x.newCountersClear t tagByte (readWindow (plainTagByte tagByte) body) := by
  rw [State.take, Kind.ofByte?_code]
  rfl

/-- A body that the reader of its kind refuses is refused with the reader's status (R146, R147). -/
theorem exec_oneByte_refused {s : State} (h : s.phase = .running) {k : Kind} {tagByte : Byte} {tag : Tag}
    {body : List Byte} (hnew : s.isNew tagByte tag) (hk : k = .watchDrop ∨ k = .windowClose ∨ k = .countersClear)
    {status : Status} (hwatch : readWatchId (plainTagByte tagByte) body = .error status)
    (hwindow : readWindow (plainTagByte tagByte) body = .error status) :
    ∃ t, exec (k.command tagByte body) s = .next t ∧ s.refusedWith t tag tagByte (plainReply k tagByte status) := by
  rcases hk with rfl | rfl | rfl
  · exact exec_new_refused h rfl hnew (State.take_watchDrop ..) fun x => by rw [hwatch]; rfl
  · exact exec_windowRequest_refused h rfl hnew (State.take_windowClose ..) (by rw [windowCloseRead, hwindow])
  · exact exec_new_refused h rfl hnew (State.take_countersClear ..) fun x => by rw [hwindow]; rfl

/-! ## The turn of a dropped poll request (R39, R100) -/

section
variable {s x : State} {id : WatchId} {turn : Turn} (hbus : x.bus = s.bus)
include hbus

theorem State.orphanPoll_bus_of_gap (hturn : s.bus.turn = some turn) (hholder : turn.holder = .poll id)
    (hstate : s.bus.state = .gap) : (x.orphanPoll id).bus = s.endTurn.bus := by
  simp only [State.orphanPoll, hbus, hturn, hholder, hstate, if_true]
  exact State.endTurn_bus_congr hbus

theorem State.orphanPoll_bus_of_access {a : Access} (hturn : s.bus.turn = some turn) (hholder : turn.holder = .poll id)
    (hstate : s.bus.state = .access a) :
    (x.orphanPoll id).bus = { s.bus with turn := some { turn with holder := .dropped } } := by
  simp only [State.orphanPoll, hbus, hturn, hholder, hstate, if_true]

theorem State.orphanPoll_bus_of_other (hother : ∀ turn, s.bus.turn = some turn → turn.holder ≠ .poll id) :
    (x.orphanPoll id).bus = s.bus := by
  unfold State.orphanPoll
  rw [hbus]
  split
  · exact hbus
  · rename_i turn hturn
    rw [if_neg (hother turn hturn)]
    exact hbus

end

/-- What a drop writes besides the bus: the watch list and the poll queue. -/
theorem State.dropWatch_eq (s : State) (id : WatchId) :
    s.dropWatch id =
      { s.setWatch id none with pollQueue := s.pollQueue.filter (fun y => y ≠ id), bus := (s.dropWatch id).bus } := by
  unfold State.dropWatch
  rw [State.orphanPoll_eq]

/-- Off the wire, with the tag written, a drop is judged as after the DEAF exit. -/
theorem State.judging_dropWatch_offWire {s x : State} {tag : Tag} (h : s.judging x tag) (id : WatchId) (e : TagEntry) :
    ((x.dropWatch id).setTag tag e).offWire =
      ({ (s.hear.setWatch id none) with
          pollQueue := s.pollQueue.filter (fun y => y ≠ id), bus := (x.dropWatch id).bus }.setTag tag e).offWire := by
  rw [State.dropWatch_eq]
  generalize (x.dropWatch id).bus = b
  rcases h with rfl | rfl <;> apply State.offWire_ext <;> simp [State.setWatch]

/-- Settles O26: the entry is freed, or the request refused. -/
theorem watchDropFrees : Obligations.WatchDropFrees := by
  refine ⟨fun s tagByte tag h hnew hspare => ⟨fun id entry hforce hentry => ?_, fun id hforce hnone => ?_,
    fun n hbad => ?_⟩, fun s k tagByte tag body h hnew hk => ⟨fun hlength => ?_, fun hlength hspare => ?_⟩⟩
  · have hread := readWatchId_be1 id
    rw [← plainTagByte_iff.mpr ⟨hspare, hforce⟩] at hread
    obtain ⟨x, hexec, hx⟩ := exec_new h hnew (State.take_watchDrop s.transmit.hear tagByte (be1 id.val) _)
    obtain ⟨-, -, -, -, hwatch, -, hbus, -⟩ := State.judging_fields hx
    have hnewDrop : x.newWatchDrop tag tagByte (readWatchId (plainTagByte tagByte) (be1 id.val)) =
        (x.dropWatch id).executed .watchDrop tag tagByte [] := by
      rw [hread]
      simp only [State.newWatchDrop, State.watchOf_congr hwatch, hentry]
    rw [hnewDrop] at hexec
    have htbus : ((x.dropWatch id).executed .watchDrop tag tagByte []).transmit.bus = (x.dropWatch id).bus := by
      rw [State.transmit_bus]
      exact State.store_bus ..
    refine ⟨_, hexec, ?_, State.store_transmit_hasStored .., fun turn hturn hholder hstate => ?_,
      fun turn a hturn hholder hstate => ?_, fun hother => ?_⟩
    · rw [htbus, State.transmit_offWire, State.executed, State.store_offWire]
      exact State.judging_dropWatch_offWire hx id _
    · exact htbus.trans (State.orphanPoll_bus_of_gap hbus hturn hholder hstate)
    · exact htbus.trans (State.orphanPoll_bus_of_access hbus hturn hholder hstate)
    · exact htbus.trans (State.orphanPoll_bus_of_other hbus hother)
  · have hread := readWatchId_be1 id
    rw [← plainTagByte_iff.mpr ⟨hspare, hforce⟩] at hread
    obtain ⟨x, hexec, hx⟩ := exec_new h hnew (State.take_watchDrop s.transmit.hear tagByte (be1 id.val) _)
    obtain ⟨-, -, -, -, hwatch, -⟩ := State.judging_fields hx
    have hrefused : x.newWatchDrop tag tagByte (readWatchId (plainTagByte tagByte) (be1 id.val)) =
        x.refuse .watchDrop tag tagByte .slotEmpty := by
      rw [hread]
      simp only [State.newWatchDrop, State.watchOf_congr hwatch, hnone]
    rw [hrefused] at hexec
    exact ⟨_, hexec, State.refuse_given hx .watchDrop tagByte .slotEmpty⟩
  · refine exec_new_refused h rfl hnew (State.take_watchDrop ..) fun x => ?_
    have hread : readWatchId (plainTagByte tagByte) [n] = .error .badField := by
      rcases hbad with hid | hforce
      · exact readWatchId_badId hid _
      · rw [show plainTagByte tagByte = false by simp [plainTagByte, hforce]]
        exact readWatchId_badTag rfl
    rw [hread]
    rfl
  · exact exec_oneByte_refused h hnew hk (readWatchId_badLength hlength _) (readWindow_badLength hlength _)
  · have hplain : plainTagByte tagByte = false := by simp [plainTagByte, hspare]
    exact exec_oneByte_refused h hnew hk (by rw [hplain, readWatchId_badTag hlength])
      (by rw [hplain, readWindow_badTag hlength])

end Sys2Proof.Machine
end

section
/-! PROOFS. What becomes of a queue entry outside its turn: it joins the queue, its backoff ends, its deadline passes,
or a grant finds that it may not be served (R44, R52, R55, R58, R71). -/

namespace Sys2Proof.Machine

/-! ## A new bus request (R71) -/

/-- A request that passes the checks is bound to the window of its first unit (R71). -/
theorem State.checkBus_ok {s : State} {force : Bool} {r : LinkRequest} {w : WinId} (hfirst : s.firstWindow r = some w)
    (hrights : r.permittedBy (s.window w).fields.rights = true) (haligned : r.aligned = true)
    (hinside : r.inside (s.window w) = true) (hhealth : force = true ∨ (s.window w).health.state ≠ .failed)
    (hroom : s.queue.length < 12) : s.checkBus force r = .ok w := by
  have hserved : (!force && decide ((s.window w).health.state = .failed)) = false := by
    rcases hhealth with h | h <;> simp [h]
  have hfull : s.queueFull = false := decide_eq_false (Nat.not_le.mpr hroom)
  simp only [State.checkBus, hfirst, hrights, haligned, hinside, hserved, hfull, Bool.not_true, Bool.false_eq_true,
    if_false]

/-- Settles O16: the judged request passes the checks and is accepted. -/
theorem busRequestAccepted : Obligations.BusRequestAccepted := by
  intro s k tagByte tag body r w h hk hnew hbody hfirst hrights haligned hinside hhealth hroom
  obtain ⟨x, hexec, hx⟩ := exec_new h hnew (State.take_of_bus hk s.transmit.hear tagByte body _)
  obtain ⟨hwindows, hqueue, -⟩ := State.judging_fields hx
  have hwindow := State.window_congr hwindows w
  have hcheck : x.checkBus (forceOf tagByte) r = .ok w :=
    State.checkBus_ok ((State.firstWindow_congr hwindows r).trans hfirst) (by rw [hwindow, hrights]) haligned
      (by rw [hwindow, hinside]) (by rwa [hwindow]) (by rwa [hqueue])
  refine ⟨_, hexec, ?_⟩
  simp only [State.newBus, hbody, hcheck]
  exact State.accept_given hx tagByte w r

/-! ## Off the wire -/

/-- A completion off the wire, whatever waits for the transmitter (R65). -/
theorem State.complete_offWire_congr {s x : State} (h : x.offWire = s.offWire) (e : LinkEntry) (status : Status) :
    (x.complete e status).offWire =
      ({ s with queue := s.queue.filter (fun y : LinkEntry => y.tag ≠ e.tag) }.setTag e.tag
        (.done e.phase (e.reply status))).offWire := by
  rw [State.complete_offWire]
  exact congrArg (fun z : State => { z with queue := z.queue.filter (fun y : LinkEntry => y.tag ≠ e.tag) }.setTag e.tag
    (.done e.phase (e.reply status))) h

/-- An entry with new progress off the wire, likewise. -/
theorem State.updateEntry_offWire_congr {s x : State} (h : x.offWire = s.offWire) (e : LinkEntry) :
    (x.updateEntry e).offWire = (s.updateEntry e).offWire :=
  congrArg (fun z : State => z.updateEntry e) h

/-- An event that completes an entry: off the wire that is all, and the reply is stored (R65, R149). -/
theorem State.complete_given (s : State) (e : LinkEntry) (status : Status) :
    (s.transmit.complete e status).transmit.offWire =
        ({ s with queue := s.queue.filter (fun y : LinkEntry => y.tag ≠ e.tag) }.setTag e.tag
          (.done e.phase (e.reply status))).offWire ∧
      (s.transmit.complete e status).transmit.hasStored e.tag e.phase (e.reply status) :=
  ⟨by rw [State.transmit_offWire, State.complete_offWire_congr s.transmit_offWire],
    State.complete_transmit_hasStored ..⟩

/-- An event that gives an entry new progress: off the wire that is all. -/
theorem State.updateEntry_given (s : State) (e : LinkEntry) :
    (s.transmit.updateEntry e).transmit.offWire = (s.updateEntry e).offWire := by
  rw [State.transmit_offWire, State.updateEntry_offWire_congr s.transmit_offWire]

/-! ## Timed events (R55, R58) -/

section
variable {s : State} {tag : Tag} {e : LinkEntry} (he : s.entryOf tag = some e)
include he

theorem State.backoffEnd_of_deferred (hstate : e.state = .deferred) :
    s.backoffEnd tag = s.updateEntry { e with retryTime := none } := by
  simp only [State.backoffEnd, he, hstate, if_true]

theorem State.deadlinePasses_of_not_active {d : Deadline} (hd : e.deadline = some d) (hstate : e.state ≠ .active) :
    s.deadlinePasses tag = s.complete e .expired := by
  simp only [State.deadlinePasses, he, hd]
  cases h : e.state with
  | waiting => rfl
  | deferred => rfl
  | active => exact absurd h hstate

theorem State.deadlinePasses_of_active {d : Deadline} (hd : e.deadline = some d) (hstate : e.state = .active) :
    s.deadlinePasses tag = s.updateEntry { e with deadline := some { d with passed := true } } := by
  simp only [State.deadlinePasses, he, hd, hstate]

end

/-- Settles O54: each event acts on the entry of its tag, by the state of the entry. -/
theorem timedEntryEvents : Obligations.TimedEntryEvents := by
  intro s tag e h he
  have hentry : s.transmit.entryOf tag = some e := by rw [State.transmit_entryOf, he]
  obtain rfl : e.tag = tag := State.entryOf_tag he
  refine ⟨fun hstate => ⟨_, exec_backoffEnd h e.tag, ?_⟩, fun d hd hstate => ⟨_, exec_deadline h e.tag, ?_⟩,
    fun d hd hstate => ⟨_, exec_deadline h e.tag, ?_⟩⟩
  · rw [State.backoffEnd_of_deferred hentry hstate]
    exact s.updateEntry_given _
  · rw [State.deadlinePasses_of_not_active hentry hd hstate]
    exact s.complete_given e .expired
  · rw [State.deadlinePasses_of_active hentry hd hstate]
    exact s.updateEntry_given _

/-! ## A grant whose re-check fails (R52) -/

/-- The first check of R52: the entry's window is OPEN, and each unit or step decodes to it and lies inside. -/
def State.servesInRange (s : State) (e : LinkEntry) : Prop :=
  (s.window e.window).isOpen = true ∧ ∀ st ∈ e.request.works,
    s.decode st.address = some e.window ∧
      st.address + st.unit.bytes ≤ (s.window e.window).fields.base + 2 ^ (s.window e.window).fields.sizeExp

theorem State.servesInRange_iff {s : State} {e : LinkEntry} :
    s.servesInRange e ↔
      ((s.window e.window).isOpen && e.request.works.all fun st =>
        decide (s.decode st.address = some e.window) && (s.window e.window).containsUnit st.address st.unit) = true := by
  simp only [State.servesInRange, Bool.and_eq_true, List.all_eq_true, decide_eq_true_eq, Window.containsUnit]
  refine and_congr_right fun _ => forall₂_congr fun st _ => and_congr_right fun hdecode => ?_
  simp only [State.contains_of_decode hdecode, true_and]
  rfl

/-- The status of a re-check that fails is that of the first check that fails (R52). -/
theorem State.recheck_of_fails {s : State} {e : LinkEntry} {status : Status}
    (h : (¬ s.servesInRange e ∧ status = .unmapped) ∨
      (s.servesInRange e ∧ ¬ (∀ st ∈ e.request.works, st.op.permittedBy (s.window e.window).fields.rights = true) ∧
        status = .accessDenied) ∨
      (s.servesInRange e ∧ (∀ st ∈ e.request.works, st.op.permittedBy (s.window e.window).fields.rights = true) ∧
        e.force = false ∧ (s.window e.window).health.state = .failed ∧ status = .windowFailed)) :
    s.recheck e = some status := by
  rw [State.servesInRange_iff, ← List.all_eq_true] at h
  unfold State.recheck
  rcases h with ⟨hrange, rfl⟩ | ⟨hrange, hrights, rfl⟩ | ⟨hrange, hrights, hforce, hfailed, rfl⟩
  · simp only [Bool.eq_false_of_not_eq_true hrange, Bool.not_false, if_true]
  · simp only [hrange, Bool.eq_false_of_not_eq_true hrights, Bool.not_false, Bool.not_true, Bool.false_eq_true,
      if_true, if_false]
  · simp only [hrange, hrights, hforce, hfailed, Bool.not_false, Bool.not_true, Bool.false_eq_true, decide_true,
      Bool.and_self, if_true, if_false]

theorem State.grantLink_of_recheck_fails {s : State} {e : LinkEntry} {status : Status} (h : s.recheck e = some status) :
    s.grantLink e = s.complete e status := by
  simp only [State.grantLink, h]

/-- Settles O41: the winner is re-checked and completes without a turn. -/
theorem grantRecheckFails : Obligations.GrantRecheckFails := by
  intro s e status h hidle hturn hlend hlink hpoll hfails
  have hgrant : s.transmit.grant = s.transmit.complete e status := by
    rw [(State.grant_of_choose (by rw [State.transmit_busFree, State.busFree_iff]; exact ⟨hidle, hturn, hlend⟩)).1 e
      (by rw [State.transmit_choose, State.choose_link hlink hpoll]),
      State.grantLink_of_recheck_fails (by rw [State.transmit_recheck, State.recheck_of_fails hfails])]
  refine ⟨_, exec_grant h, ?_⟩
  rw [hgrant]
  exact s.complete_given e status

end Sys2Proof.Machine
end

section
/-! PROOFS. ABORT (R60 to R63) and RESTART (R38, R66, R156). -/

namespace Sys2Proof.Machine

/-! ## ABORT on an entry (R61 to R63) -/

section
variable {s : State} {e : LinkEntry}

theorem State.abortEntry_of_not_active (h : e.state ≠ .active) : s.abortEntry e = s.complete e .aborted := by
  unfold State.abortEntry
  cases hstate : e.state with
  | waiting => rfl
  | deferred => rfl
  | active => exact absurd hstate h

/-- An ACTIVE entry that has made an access, or is not in a GAP, is stopped later (R62, R63). -/
theorem State.abortEntry_of_begun (hstate : e.state = .active) (h : s.bus.state ≠ .gap ∨ e.accessIndex ≠ 0) :
    s.abortEntry e = s.updateEntry { e with stopRequested := true } := by
  have hbegun : ¬ (s.gapTurnOf e.tag && decide (e.accessIndex = 0)) = true := by
    rw [Bool.and_eq_true, decide_eq_true_eq]
    rintro ⟨hgap, hindex⟩
    refine h.elim (fun hother => ?_) (absurd hindex)
    unfold State.gapTurnOf at hgap
    split at hgap
    · exact hother ‹_›
    · cases hgap
  simp only [State.abortEntry, hstate, if_neg hbegun]

/-- A turn in a GAP before its first access ends with its entry (R62). -/
theorem State.abortEntry_of_gap {turn : Turn} (hstate : e.state = .active) (hgap : s.bus.state = .gap)
    (hturn : s.bus.turn = some turn) (hholder : turn.holder = .link e.tag) (hindex : e.accessIndex = 0) :
    s.abortEntry e = s.endTurn.complete e .aborted := by
  simp only [State.abortEntry, hstate, State.gapTurnOf, hgap, hturn, hholder, hindex, decide_true, Bool.and_self,
    if_true]

end

@[simp] theorem State.complete_immediate (s : State) (e : LinkEntry) (status : Status) :
    (s.complete e status).tracker.immediate = s.tracker.immediate := State.list_immediate ..

@[simp] theorem State.complete_drops (s : State) (e : LinkEntry) (status : Status) :
    (s.complete e status).tracker.drops = s.tracker.drops := State.list_drops ..

/-- An ABORT leaves the transmitter and the immediate reply list alone. -/
theorem State.abortEntry_wire (s : State) (e : LinkEntry) :
    (s.abortEntry e).tx = s.tx ∧ (s.abortEntry e).tracker.immediate = s.tracker.immediate ∧
      (s.abortEntry e).tracker.drops = s.tracker.drops := by
  unfold State.abortEntry
  split
  · simp
  · simp
  · split <;> simp

/-! ## The ABORT frame (R60) -/

theorem readAbort_be1 (target : Tag) : readAbort true (be1 target.number) = .ok target := by
  have hfield : fieldAt (be1 target.number) 0 1 = target.val + 1 := by
    rw [fieldAt_be1, Tag.number, Nat.mod_eq_of_lt (by omega)]
  have hrange : 1 ≤ target.val + 1 ∧ target.val + 1 ≤ 15 := by omega
  simp only [readAbort, hfield, dif_pos hrange]
  rfl

theorem State.take_abort_of_none {s : State} {tagByte : Byte} (hspare : spareClear tagByte = true) {target : Tag}
    (he : s.entryOf target = none) (prior : LinkState) :
    s.take Kind.abort.code tagByte (be1 target.number) prior = s.answer Kind.abort.code tagByte .notFound [] := by
  rw [State.take, Kind.ofByte?_code]
  simp only [takeAbort, hspare, readAbort_be1, he]

theorem State.take_abort_of_entry {s : State} {tagByte : Byte} (hspare : spareClear tagByte = true) {target : Tag}
    {e : LinkEntry} (he : s.entryOf target = some e) (prior : LinkState) :
    s.take Kind.abort.code tagByte (be1 target.number) prior =
      (s.abortEntry e).answer Kind.abort.code tagByte .ok [] := by
  rw [State.take, Kind.ofByte?_code]
  simp only [takeAbort, hspare, readAbort_be1, he]

/-- What is listed before an answer is stored after the choice that follows it (R153, R168). -/
theorem State.hasListed.answer_transmit {x : State} {t : Tag} {phase : Bool} {r : Reply} (h : x.hasListed t phase r)
    (kind tagByte : Byte) (status : Status) (contents : List Byte) :
    (x.answer kind tagByte status contents).transmit.hasStored t phase r := by
  refine State.hasListed.transmit ?_
  unfold State.answer State.pushImmediate State.hasListed State.tagOf
  split
  · exact h
  · exact h

/-- An ABORT whose target is queued acts on its entry and is answered OK (R61). -/
theorem exec_abort_acts {s : State} {tagByte : Byte} {target : Tag} {e : LinkEntry} (h : s.phase = .running)
    (hspare : spareClear tagByte = true) (he : s.entryOf target = some e) :
    ∃ t, exec (.abort tagByte (be1 target.number)) s = .next t ∧
      t.offWire = (s.transmit.hear.abortEntry e).offWire ∧ s.answered t (plainReply .abort tagByte .ok) ∧
      ∀ {tag phase r}, (s.transmit.hear.abortEntry e).hasListed tag phase r → t.hasStored tag phase r := by
  have hentry : s.transmit.hear.entryOf target = some e := by rw [State.hear_entryOf, State.transmit_entryOf, he]
  obtain ⟨htx, himmediate, hdrops⟩ := s.transmit.hear.abortEntry_wire e
  refine ⟨_, exec_command h .abort tagByte _, ?_⟩
  rw [State.arrive, State.take_abort_of_entry hspare hentry]
  exact ⟨by simp, State.answered_of_answer htx himmediate hdrops .., fun hlisted => hlisted.answer_transmit ..⟩

/-- Settles O34: the target's entry is missing, completes, is to stop, or ends its turn. -/
theorem abortActsOnEntry : Obligations.AbortActsOnEntry := by
  intro s tagByte target h hspare
  refine ⟨fun hnone => ?_, fun e he hstate => ?_, fun e he hstate hbegun => ?_,
    fun e turn he hstate hgap hturn hholder hindex => ?_⟩
  · refine exec_answers h (k := .abort) ?_
    exact State.take_abort_of_none hspare (by rw [State.hear_entryOf, State.transmit_entryOf, hnone]) _
  all_goals
    obtain ⟨t, hexec, hoff, hanswered, hstored⟩ := exec_abort_acts h hspare he
    obtain rfl : e.tag = target := State.entryOf_tag he
  · rw [State.abortEntry_of_not_active hstate] at hoff hstored
    rw [State.complete_offWire_congr s.transmit_hear_offWire] at hoff
    exact ⟨t, hexec, hoff, hstored (State.complete_hasListed ..), hanswered⟩
  · rw [State.abortEntry_of_begun hstate (by simpa using hbegun),
      State.updateEntry_offWire_congr s.transmit_hear_offWire] at hoff
    exact ⟨t, hexec, hoff, hanswered⟩
  · rw [State.abortEntry_of_gap hstate (by simpa using hgap) (by simpa using hturn) hholder hindex] at hoff hstored
    have hended : s.transmit.hear.endTurn.offWire = ({ s.hear with bus := s.endTurn.bus } : State).offWire := by
      rw [State.endTurn_eq, State.endTurn_bus_congr (s := s) (by simp)]
      exact congrArg (fun z : State => { z with bus := s.endTurn.bus }) s.transmit_hear_offWire
    rw [State.complete_offWire_congr hended] at hoff
    exact ⟨t, hexec, hoff, hstored (State.complete_hasListed ..), hanswered⟩

/-! ## The turn at a RESTART (R38) -/

section
variable {s x : State} {turn : Turn} {tag : Tag} (hbus : x.bus = s.bus)
include hbus

theorem State.cutLinkTurn_bus_of_access {a : Access} (hturn : s.bus.turn = some turn)
    (hholder : turn.holder = .link tag) (hstate : s.bus.state = .access a) :
    x.cutLinkTurn.bus = { s.bus with turn := some { turn with holder := .dropped } } := by
  simp only [State.cutLinkTurn, hbus, hturn, hholder, hstate]

theorem State.cutLinkTurn_bus_of_waiting (hturn : s.bus.turn = some turn) (hholder : turn.holder = .link tag)
    (hstate : ∀ a, s.bus.state ≠ .access a) : x.cutLinkTurn.bus = s.endTurn.bus := by
  simp only [State.cutLinkTurn, hbus, hturn, hholder]
  exact State.endTurn_bus_congr hbus

theorem State.cutLinkTurn_bus_of_other (hother : ∀ turn tag, s.bus.turn = some turn → turn.holder ≠ .link tag) :
    x.cutLinkTurn.bus = s.bus := by
  unfold State.cutLinkTurn
  rw [hbus]
  split
  · exact hbus
  · split
    · exact absurd ‹_› (hother _ _ ‹_›)
    · exact hbus
    · exact hbus

end

/-! ## An answer on an empty list (R152, R168) -/

/-- With no listed reply none is listed after a choice. -/
theorem State.transmit_outgoing_of_nil {x : State} (h : x.tracker.outgoing = []) : x.transmit.tracker.outgoing = [] :=
  x.transmit_cases (P := fun t => t.tracker.outgoing = []) h (fun _ _ _ _ => h)
    (fun _ _ _ _ => by rw [State.takeReply, State.send, h]; rfl) fun _ _ _ _ => h

section
variable {x : State} (himmediate : x.tracker.immediate = []) (kind tagByte : Byte) (status : Status)
  (contents : List Byte)
include himmediate

/-- Placed on an empty list an answer is not dropped. -/
theorem State.answer_tracker_of_nil :
    (x.answer kind tagByte status contents).tracker =
      { x.tracker with
        immediate := [{ kind := replyKind kind, tagByte := tagByte, body := status.code :: contents }] } := by
  simp [State.answer, State.pushImmediate, himmediate, Config.immediateCapacity]

/-- It waits for a SENDING transmitter, and a FREE one takes it at once. -/
theorem State.answer_transmit_of_nil :
    (x.tx.frame.isSome = true →
        (x.answer kind tagByte status contents).transmit = x.answer kind tagByte status contents) ∧
      (x.tx.frame = none →
        (x.answer kind tagByte status contents).transmit =
          (x.answer kind tagByte status contents).takeImmediate
            { kind := replyKind kind, tagByte := tagByte, body := status.code :: contents } []) :=
  ⟨fun hsending => State.transmit_of_sending hsending, fun hfree =>
    State.transmit_of_immediate hfree (by rw [State.answer_tracker_of_nil himmediate])⟩

end

/-! ## The RESTART frame (R156) -/

/-- What a RESTART writes besides the bus, off the wire (R66, R156). -/
theorem State.restarted_offWire (s : State) :
    s.transmit.hear.restarted.offWire =
      ({ s.hear with
          queue := [], bus := s.transmit.hear.cutLinkTurn.bus,
          tracker := { s.tracker with tags := Vector.replicate 15 .empty, duplicates := 0 },
          rx := { s.rx with badCrc := 0, oversize := 0, truncated := 0 },
          notices := { s.hear.notices with link := .live, resendCount := 0 } } : State).offWire := by
  rw [State.restarted, State.cutLinkTurn_eq]
  exact congrArg (fun z : State =>
    { z with
      queue := [], bus := s.transmit.hear.cutLinkTurn.bus, tracker := Tracker.reset,
      rx := { z.rx with badCrc := 0, oversize := 0, truncated := 0 },
      notices := { z.notices with link := .live, resendCount := 0 } }) s.transmit_hear_offWire

theorem exec_restart {s : State} {tagByte : Byte} (h : s.phase = .running) (hspare : spareClear tagByte = true) :
    exec (.restart tagByte []) s =
      .next (s.transmit.hear.restarted.answer Kind.restart.code tagByte .ok (be1 s.queue.length)).transmit := by
  rw [show (Instr.restart tagByte []) = Kind.restart.command tagByte [] from rfl, exec_command h, State.arrive,
    State.take, Kind.ofByte?_code]
  simp only [takeRestart, hspare, State.hear_queue, State.transmit_queue]
  rfl

/-- Settles O35: RESTART writes the session and the turn, and its answer is the first on the empty list. -/
theorem restartEmptiesSession : Obligations.RestartEmptiesSession := by
  intro s tagByte h hspare
  refine ⟨_, exec_restart h hspare, ?_⟩
  have hbus : s.transmit.hear.bus = s.bus := by simp
  have htbus : (s.transmit.hear.restarted.answer Kind.restart.code tagByte .ok (be1 s.queue.length)).transmit.bus =
      s.transmit.hear.cutLinkTurn.bus := State.transmit_bus _
  have htx : s.transmit.hear.restarted.tx = s.transmit.tx := by simp [State.restarted]
  have htracker := State.answer_tracker_of_nil (x := s.transmit.hear.restarted) rfl Kind.restart.code tagByte .ok
    (be1 s.queue.length)
  obtain ⟨hsending, hfree⟩ := State.answer_transmit_of_nil (x := s.transmit.hear.restarted) rfl Kind.restart.code
    tagByte .ok (be1 s.queue.length)
  rw [htbus]
  refine ⟨?_, State.transmit_outgoing_of_nil (by rw [htracker]; rfl), ?_, fun turn tag hturn hholder => ⟨fun a hstate =>
    State.cutLinkTurn_bus_of_access hbus hturn hholder hstate, State.cutLinkTurn_bus_of_waiting hbus hturn hholder⟩,
    State.cutLinkTurn_bus_of_other hbus, fun hframe => ?_, fun hframe => ?_⟩
  · rw [State.transmit_offWire, State.answer_offWire, State.restarted_offWire]
  · rw [State.transmit_drops, htracker]
    rfl
  · rw [hsending (by rw [htx, hframe]), htracker]
    exact ⟨htx, rfl⟩
  · rw [hfree (by rw [htx, hframe])]
    exact ⟨rfl, rfl⟩

end Sys2Proof.Machine
end

section
/-! PROOFS. What ends a link request at an access end before its last unit or step: no READY, a TEST that differs, a
stop that was requested (R53, R62, R63, R76, R81), and the declaration that flushes its window (R64, R87, R90). -/

namespace Sys2Proof.Machine

theorem Profile.outcome_noReady {p : Profile} {ready : List Bool} (h : (p.strobeEnd ready).2 = false) :
    p.outcome ready false = .noReady := by
  simp only [Profile.outcome, h, Bool.false_eq_true, if_false]

/-! ## A TEST (R81) -/

section
variable {st : SeqStep} {mask reference : Value} (hop : st.op = .test mask reference)
include hop

theorem SeqStep.accesses_of_test (lane : Lane) : st.accesses lane = lane.accesses st.unit := by
  simp only [SeqStep.accesses, hop]

theorem SeqStep.heldAfter_of_test {lane : Lane} {i : Nat} (hi : i < lane.accesses st.unit) (held : Value)
    (lines : BusData) :
    st.heldAfter lane i held lines = held ||| (lane.piece st.unit st.address i).sample lines := by
  simp only [SeqStep.heldAfter, SeqStep.dirAt, SeqStep.pieceAt, hop, hi, if_true]

theorem SeqStep.result_of_test (v : Value) : st.result v = [{ unit := st.unit, value := v }] := by
  simp only [SeqStep.result, hop]

theorem SeqStep.mismatches_of_test {v : Value} (hdiffers : v &&& mask ≠ reference) : st.mismatches v = true := by
  simp only [SeqStep.mismatches, hop, decide_eq_true hdiffers]

end

/-! ## The holder stops (R53, R62, R63, R81) -/

section
variable {s x : State} {e : LinkEntry} {turn : Turn} {st : SeqStep} {lines : BusData} (hwindows : x.windows = s.windows)
  (hwork : e.request.workAt e.done = some st)
  (hlast : e.accessIndex + 1 = st.accesses (s.window e.window).fields.lane)
include hwindows hwork hlast

theorem State.linkTakes_mismatches
    (hdiffers : st.mismatches (st.heldAfter (s.window e.window).fields.lane e.accessIndex e.held lines) = true) :
    x.linkTakes e turn .ok lines =
      x.stopWith (e.afterUnit st (st.heldAfter (s.window e.window).fields.lane e.accessIndex e.held lines)) .mismatch
        false := by
  rw [State.linkTakes_last hwindows hwork hlast]
  exact if_pos hdiffers

/-- A stop is carried out between two units or steps (R62, R63). -/
theorem State.linkTakes_aborts
    (hsame : ¬ st.differs (st.heldAfter (s.window e.window).fields.lane e.accessIndex e.held lines))
    (hmore : e.done + 1 < e.request.size) (hstop : e.stopRequested = true) :
    x.linkTakes e turn .ok lines =
      x.stopWith (e.afterUnit st (st.heldAfter (s.window e.window).fields.lane e.accessIndex e.held lines)) .aborted
        false := by
  rw [State.linkTakes_last hwindows hwork hlast]
  unfold State.unitDone
  dsimp only
  rw [SeqStep.mismatches_eq_false.mpr hsame, if_neg Bool.false_ne_true, if_neg (Nat.not_le.mpr hmore), if_pos hstop]
  rfl

end

/-- A turn that is over with no lend pending leaves the bus IDLE (R23). -/
theorem State.turnOver_idle {s t : State} {a : Access} (h : s.turnOver t a) (hlend : s.bus.lendPending = false) :
    t.bus.state = .idle := by
  obtain ⟨-, -, hidle, -⟩ := h
  exact (hidle hlend).1

/-- The reply of a SEQUENCE stopped by its TEST, whose value stands last (R81, R82, R84). -/
theorem LinkEntry.reply_mismatch {e : LinkEntry} {steps : List SeqStep} (hrequest : e.request = .sequence steps)
    (st : SeqStep) (v : Value) :
    (e.afterUnit st v).reply .mismatch =
      { kind := 0x92#8, tagByte := e.tagByte,
        body := 0x11#8 :: be1 (e.done + 1) ++ ((e.results ++ st.result v).map UnitValue.toBytes).flatten } := by
  simp only [LinkEntry.reply, LinkEntry.replyBody, LinkEntry.afterUnit, hrequest, LinkRequest.kind,
    show replyKind Kind.sequence.code = 0x92#8 by decide]
  rfl

/-- Settles O45: the three ways to stop, by what the holder makes of the outcome. -/
theorem accessStopsRequest : Obligations.AccessStopsRequest := by
  refine ⟨?_, ?_, ?_⟩
  · intro s a turn tag e ready lines h hstate hturn hholder he hready
    obtain ⟨t, hexec, hgone, hstored, hover, -⟩ := exec_accessEnd_stops (ready := ready) (deferred := false)
      (lines := lines) (status := .noReady) h hstate hturn hholder he (State.entryOf_tag he) fun x _ _ _ => by
        rw [Profile.outcome_noReady hready]
        rfl
    exact ⟨t, hexec, hgone, hstored, State.turnOver_idle hover⟩
  · intro s a turn tag e steps st mask reference ready lines h hstate hturn hholder he hrequest hstep hop hindex hready
    dsimp only
    intro hdiffers
    have hwork : e.request.workAt e.done = some st := by rw [hrequest]; exact hstep
    have hheld := SeqStep.heldAfter_of_test hop
      (show e.accessIndex < (s.window e.window).fields.lane.accesses st.unit by omega) e.held lines
    obtain ⟨t, hexec, hgone, hstored, hover, -⟩ := exec_accessEnd_stops (ready := ready) (deferred := false)
      (e' := e.afterUnit st (st.heldAfter (s.window e.window).fields.lane e.accessIndex e.held lines)) (lines := lines)
      h hstate hturn hholder he (show e.tag = tag from State.entryOf_tag he) fun x _ hwindows _ => by
        rw [Profile.outcome_ok hready]
        exact State.linkTakes_mismatches hwindows hwork (by rw [SeqStep.accesses_of_test hop, hindex])
          (by rw [hheld]; exact SeqStep.mismatches_of_test hop hdiffers)
    refine ⟨t, hexec, hgone, ?_, State.turnOver_idle hover⟩
    rwa [LinkEntry.reply_mismatch hrequest, SeqStep.result_of_test hop, hheld] at hstored
  · intro s a turn tag e st ready lines h hstate hturn hholder he hwork hready hstop hmore
    dsimp only
    intro hlast hsame
    obtain ⟨t, hexec, hgone, hstored, hover, -⟩ := exec_accessEnd_stops (ready := ready) (deferred := false)
      (e' := e.afterUnit st (st.heldAfter (s.window e.window).fields.lane e.accessIndex e.held lines)) (lines := lines)
      h hstate hturn hholder he (show e.tag = tag from State.entryOf_tag he) fun x _ hwindows _ => by
        rw [Profile.outcome_ok hready]
        exact State.linkTakes_aborts hwindows hwork hlast hsame hmore hstop
    exact ⟨t, hexec, hgone, hstored, hover⟩

/-! ## A declaration flushes its window (R64, R87) -/

/-- The flush of a window takes its bus requests without FORCE that are WAITING or DEFERRED (R64). -/
theorem LinkEntry.flushedBy_iff {e : LinkEntry} {w : WinId} :
    e.flushedBy w = true ↔ e.request.isBus = true ∧ e.window = w ∧ e.force = false ∧ e.state ≠ .active := by
  simp [LinkEntry.flushedBy, and_assoc]

/-- What a delivery that declares its window FAILED leaves of the requests its flush takes. -/
theorem State.deliver_flushes {s : State} {a : Access} {turn : Turn} {o : Outcome} {lines : BusData}
    (hbefore : (s.window a.window).health.state ≠ .failed)
    (hafter : ((s.deliver a turn o lines).1.window a.window).health.state = .failed) :
    (∀ e ∈ (s.deliver a turn o lines).1.queue, e.flushedBy a.window = false) ∧
      ((s.deliver a turn o lines).1.statsOf a.window).failedSeen = true ∧
      ((s.queue.map LinkEntry.tag).Nodup → ∀ e ∈ s.queue, e.flushedBy a.window = true → turn.holder ≠ .link e.tag →
        (s.deliver a turn o lines).1.entryOf e.tag = none ∧
          (s.deliver a turn o lines).1.hasListed e.tag e.phase (e.reply .windowFailed)) := by
  rw [State.deliver_window, if_pos rfl] at hafter
  have hdeclared := (Health.take_declared _ _ _ _).mpr ⟨hbefore, hafter⟩
  obtain ⟨x, hqueue, htracker, hxqueue, -, hxwindows⟩ := s.deliver_queue a turn o lines
  obtain ⟨hstays, htags, -⟩ := State.holderTakes_only
    ({ s with bus := { s.bus with gapRecord := a.gapAfter } }.countOutcome a.window o) turn o lines
  change ∀ e ∈ s.queue, _ → e ∈ (s.holderPart a turn o lines).state.queue at hstays
  change ((s.holderPart a turn o lines).state.queue.map LinkEntry.tag).Sublist (s.queue.map LinkEntry.tag) at htags
  rw [← hxqueue] at hstays htags
  have hxdeclared : ((x.window a.window).health.take (x.window a.window).fields.declareCount
      (x.window a.window).fields.clearCount (accessInput o (s.holderPart a turn o lines).exhausted)).2 = .declared := by
    rw [State.window_congr hxwindows, hdeclared]
  refine ⟨fun e he => ?_, ?_, fun hnodup e he hflushed hholder => ?_⟩
  · rw [hqueue] at he
    exact (State.judge_queue he).2 hxdeclared
  · rw [State.deliver_statsOf, if_pos rfl, hdeclared]
    simp
  · rw [State.entryOf_congr hqueue, State.hasListed_congr htracker]
    exact State.judge_flushes hxdeclared (hstays e he hholder) hflushed (hnodup.sublist htags)

/-! ## An access end without a watch report (R87, R90) -/

/-- A turn that no poll holds reports nothing of a watch entry. -/
theorem State.holderTakes_notices_of_not_poll {s : State} {t : Turn} (h : ∀ id, t.holder ≠ .poll id) (o : Outcome)
    (lines : BusData) : (s.holderTakes t o lines).notices = [] := by
  unfold State.holderTakes
  split
  · split
    · rfl
    · rename_i e _
      have htaken := s.linkTakes_taken e t o lines
      generalize s.linkTakes e t o lines = r at htaken
      cases htaken <;> rfl
  · exact absurd ‹_› (h _)
  · rfl

/-- A poll that is not OK is counted and not judged (R107, R108). -/
theorem State.pollTakes_notices_of_not_ok (s : State) (id : WatchId) (x : WatchEntry) (turn : Turn) {o : Outcome}
    (ho : o ≠ .ok) (lines : BusData) : (s.pollTakes id x turn o lines).notices = [] := by
  cases o with
  | ok => exact absurd rfl ho
  | noReady => rfl
  | defer => rfl

/-- An access that is not OK reports nothing of a watch entry, whoever holds the turn. -/
theorem State.holderTakes_notices_of_not_ok {s : State} {turn : Turn} {o : Outcome} (ho : o ≠ .ok) (lines : BusData) :
    (s.holderTakes turn o lines).notices = [] := by
  cases hholder : turn.holder with
  | poll id =>
    cases hx : s.watchOf id with
    | none => simp only [State.holderTakes, hholder, hx]
    | some x =>
      rw [State.holderTakes_poll o lines hholder hx]
      exact s.pollTakes_notices_of_not_ok id x turn ho lines
  | link tag => exact State.holderTakes_notices_of_not_poll (by rw [hholder]; exact nofun) o lines
  | dropped => exact State.holderTakes_notices_of_not_poll (by rw [hholder]; exact nofun) o lines

theorem orderNotices_nil (n : Nat) (health : List NoticeContent) : orderNotices n health [] = health := by
  cases health <;> rfl

/-- A poll that is not at its last access reports nothing, whatever the outcome (R106). -/
theorem State.holderPart_notices_of_reading {s : State} {turn : Turn} {id : WatchId} {x : WatchEntry} (a : Access)
    (o : Outcome) (lines : BusData) (hholder : turn.holder = .poll id) (hx : s.watchOf id = some x)
    (hmore : turn.pollIndex + 1 < (s.window turn.window).fields.lane.accesses x.config.unit) :
    (s.holderPart a turn o lines).notices = [] := by
  obtain ⟨c, hpart, -, -, -, hwindows⟩ := State.holderPart_poll a o lines hholder hx
  rw [hpart]
  by_cases ho : o = .ok
  · rw [ho, State.pollTakes_reads (by rwa [State.window_congr hwindows])]
  · exact c.pollTakes_notices_of_not_ok id x turn ho lines

theorem Profile.outcome_ne_ok {p : Profile} {ready : List Bool} {deferred : Bool}
    (h : deferred = true ∨ (p.strobeEnd ready).2 = false) : p.outcome ready deferred ≠ .ok := by
  cases deferred with
  | true => rw [Profile.outcome_deferred]; exact nofun
  | false => rw [Profile.outcome_noReady (h.resolve_left nofun)]; exact nofun

/-- Settles O49: a declaration flushes, and without a watch report the notices are those of the window's health. -/
theorem declarationFlushes : Obligations.DeclarationFlushes := by
  constructor
  · intro s t a turn ready deferred lines h hstate hturn hexec hbefore hafter
    rw [exec_accessEnd h, State.accessEnd_eq (a := a) (t := turn) (by simp [hstate]) (by simp [hturn])] at hexec
    obtain rfl := Host.Outcome.next.inj hexec
    have hleft := State.chooseAfterEntry_leftBy s.transmit
      (s.transmit.deliver a turn (a.profile.outcome ready deferred) lines).1 turn
      (s.transmit.deliver a turn (a.profile.outcome ready deferred) lines).2
    rw [State.window_congr hleft.windows] at hafter
    obtain ⟨hqueue, hseen, hflushed⟩ := State.deliver_flushes (s := s.transmit) (by simpa using hbefore) hafter
    rw [hleft.queue, State.statsOf_congr hleft.stats]
    refine ⟨fun e he hbus hwindow hforce => ?_, hseen, fun hnodup e he hbus hwindow hforce hwaiting hholder => ?_⟩
    · by_contra hwaiting
      exact absurd (LinkEntry.flushedBy_iff.mpr ⟨hbus, hwindow, hforce, hwaiting⟩) (by simp [hqueue e he])
    · obtain ⟨hgone, hlisted⟩ := hflushed (by simpa using hnodup) e (by simpa using he)
        (LinkEntry.flushedBy_iff.mpr ⟨hbus, hwindow, hforce, hwaiting⟩) hholder
      refine ⟨by rw [State.entryOf_congr hleft.queue, hgone], State.hasListed.chooseAfterEntry ?_⟩
      rw [State.continueTurn_eq]
      exact hlisted
  · intro s a turn ready deferred lines h hstate hturn hsilent
    obtain ⟨t, hexec, hnotices⟩ := exec_accessEnd_notices h hstate hturn ready deferred lines
    have hnone : (s.transmit.holderPart a turn (a.profile.outcome ready deferred) lines).notices = [] := by
      rcases hsilent with hpoll | hdeferred | hready | ⟨id, x, hholder, hx, hmore⟩
      · exact State.holderTakes_notices_of_not_poll hpoll _ _
      · exact State.holderTakes_notices_of_not_ok (Profile.outcome_ne_ok (.inl hdeferred)) _
      · exact State.holderTakes_notices_of_not_ok (Profile.outcome_ne_ok (.inr hready)) _
      · exact State.holderPart_notices_of_reading a _ lines hholder (by simpa using hx) (by simpa using hmore)
    rw [hnone, orderNotices_nil] at hnotices
    exact ⟨t, hexec, hnotices⟩

end Sys2Proof.Machine
end

section
/-! PROOFS. A READ, WRITE or SEQUENCE that is refused: the bodies that fail the length check and the field check
(R68 to R70, R170), the later checks of R71 in their order, and the answer (R147, R171). -/

namespace Sys2Proof.Machine

/-! ## Unit values at their place (R68, R69) -/

theorem UnitSize.unitCode_of_ofCode? {n : Nat} {unit : UnitSize} (h : UnitSize.ofCode? n = some unit) :
    unitCode n := by
  by_contra hno
  rw [UnitSize.ofCode?_eq_none.mpr hno] at h
  cases h

theorem UnitSize.bytes_of_ofCode? {n : Nat} {unit : UnitSize} (h : UnitSize.ofCode? n = some unit) :
    unit.bytes = n := by
  obtain ⟨u, hu, hbytes⟩ := UnitSize.ofCode?_of_unitCode (UnitSize.unitCode_of_ofCode? h)
  rw [h] at hu
  rwa [Option.some.inj hu]

/-- The field check that READ and WRITE share fails on a spare bit of the tag byte, on an address above the space, and
on a count of no unit or of more than 128 bytes (R68, R69, R170). -/
theorem checked_units_badField {α : Type} {tagOk : Bool} {address count : Nat} {unit : UnitSize}
    (h : tagOk = false ∨ 0x400000 ≤ address ∨ count = 0 ∨ 128 < count * unit.bytes) (a : α) :
    checked (tagOk && decide (address < Config.addressSpace) && decide (1 ≤ count) && decide (count ≤ 128) &&
      decide (count * unit.bytes ≤ 128)) a = .error .badField := by
  refine if_neg fun hok => ?_
  simp only [Bool.and_eq_true, decide_eq_true_eq] at hok
  obtain ⟨⟨⟨⟨htag, haddress⟩, hcount⟩, -⟩, hsize⟩ := hok
  have hspace : Config.addressSpace = 0x400000 := rfl
  rcases h with h | h | h | h
  · rw [h] at htag
    cases htag
  all_goals omega

/-! ## The body of a READ (R68) -/

theorem readRead_badLength {body : List Byte} (h : body.length ≠ 6) (tagOk : Bool) :
    readRead tagOk body = .error .badLength := if_neg h

theorem readRead_badField {tagOk : Bool} {body : List Byte} (hlength : body.length = 6)
    (h : tagOk = false ∨ 0x400000 ≤ fieldAt body 0 3 ∨ ¬ unitCode (fieldAt body 3 1) ∨ fieldAt body 4 1 = 0 ∨
      128 < fieldAt body 4 1 * fieldAt body 3 1 ∨ 2 ≤ fieldAt body 5 1) :
    readRead tagOk body = .error .badField := by
  rw [readRead, ofLength, if_pos hlength]
  cases hunit : UnitSize.ofCode? (fieldAt body 3 1) with
  | none => rfl
  | some unit =>
    cases hmode : AddrMode.ofCode? (fieldAt body 5 1) with
    | none => rfl
    | some mode =>
      have hcode := UnitSize.unitCode_of_ofCode? hunit
      have hmodeCode : ¬ 2 ≤ fieldAt body 5 1 := fun hno => by
        rw [AddrMode.ofCode?_eq_none.mpr hno] at hmode
        cases hmode
      rw [← UnitSize.bytes_of_ofCode? hunit] at h hcode
      refine checked_units_badField ?_ _
      tauto

/-! ## The body of a WRITE (R69) -/

theorem readWrite_short {body : List Byte} (h : body.length < 4) (tagOk : Bool) :
    readWrite tagOk body = .error .badLength := if_pos h

theorem readWrite_badUnit {body : List Byte} (hlength : 4 ≤ body.length) (hunit : ¬ unitCode (fieldAt body 3 1))
    (tagOk : Bool) : readWrite tagOk body = .error .badField := by
  rw [readWrite, if_neg (Nat.not_lt.mpr hlength), UnitSize.ofCode?_eq_none.mpr hunit]

theorem readWrite_badLength {body : List Byte} (hlength : 4 ≤ body.length) (hunit : unitCode (fieldAt body 3 1))
    (hno : body.length ≠ 6 + fieldAt body 5 1 * fieldAt body 3 1) (tagOk : Bool) :
    readWrite tagOk body = .error .badLength := by
  obtain ⟨unit, hcode, hbytes⟩ := UnitSize.ofCode?_of_unitCode hunit
  rw [← hbytes] at hno
  rw [readWrite, if_neg (Nat.not_lt.mpr hlength), hcode]
  exact if_neg hno

theorem readWrite_badField {tagOk : Bool} {body : List Byte} (hunit : unitCode (fieldAt body 3 1))
    (hlength : body.length = 6 + fieldAt body 5 1 * fieldAt body 3 1)
    (h : tagOk = false ∨ 0x400000 ≤ fieldAt body 0 3 ∨ 2 ≤ fieldAt body 4 1 ∨ fieldAt body 5 1 = 0 ∨
      128 < fieldAt body 5 1 * fieldAt body 3 1) :
    readWrite tagOk body = .error .badField := by
  obtain ⟨unit, hcode, hbytes⟩ := UnitSize.ofCode?_of_unitCode hunit
  rw [readWrite, if_neg (by omega), hcode]
  rw [← hbytes] at h hlength
  refine (if_pos hlength).trans ?_
  cases hmode : AddrMode.ofCode? (fieldAt body 4 1) with
  | none => rfl
  | some mode =>
    have hmodeCode : ¬ 2 ≤ fieldAt body 4 1 := fun hno => by
      rw [AddrMode.ofCode?_eq_none.mpr hno] at hmode
      cases hmode
    refine checked_units_badField ?_ _
    tauto

/-! ## The walk over the steps of a SEQUENCE (R70) -/

theorem operandCount?_eq_none {n : Nat} (h : 4 ≤ n) : operandCount? n = none := by
  match n with
  | n + 4 => rfl

/-- Bytes that remain after the last step. -/
theorem walkSteps_remaining {bytes : List Byte} (h : bytes ≠ []) : walkSteps 0 bytes = .error .badLength :=
  if_neg (by simpa using h)

/-- A step that is cut inside its fields. -/
theorem walkSteps_cutFields {bytes : List Byte} (h : bytes.length < 5) (n : Nat) :
    walkSteps (n + 1) bytes = .error .badLength := by
  rw [walkSteps, if_pos h]

/-- A step whose operation or unit size is no listed code. -/
theorem walkSteps_badCode {bytes : List Byte} (hlength : 5 ≤ bytes.length)
    (h : 4 ≤ fieldAt bytes 0 1 ∨ ¬ unitCode (fieldAt bytes 4 1)) (n : Nat) :
    walkSteps (n + 1) bytes = .error .badField := by
  rw [walkSteps, if_neg (Nat.not_lt.mpr hlength)]
  rcases h with h | h
  · rw [operandCount?_eq_none h]
  · rw [UnitSize.ofCode?_eq_none.mpr h]
    cases operandCount? (fieldAt bytes 0 1) <;> rfl

/-- A step that is cut inside its operands. -/
theorem walkSteps_cutOperands {bytes : List Byte} {op : StepOp} {unit : UnitSize} (hlength : 5 ≤ bytes.length)
    (hop : fieldAt bytes 0 1 = op.code) (hunit : fieldAt bytes 4 1 = unit.bytes)
    (hcut : bytes.length < 5 + op.operands.length * unit.bytes) (n : Nat) :
    walkSteps (n + 1) bytes = .error .badLength := by
  rw [walkSteps, if_neg (Nat.not_lt.mpr hlength), hop, hunit, operandCount?_code, UnitSize.ofCode?_bytes]
  exact if_pos hcut

/-! ## The body of a SEQUENCE (R70) -/

/-- Whole steps, fewer than the step count, before bytes at which the walk fails: the body fails as they do. -/
theorem readSequence_of_walkSteps_error {count : Byte} {steps : List SeqStep} {more : List Byte} {status : Status}
    (hcount : steps.length ≤ count.toNat)
    (hwalk : walkSteps (count.toNat - steps.length) more = .error status) (tagOk : Bool) :
    readSequence tagOk (count :: ((steps.map SeqStep.toBytes).flatten ++ more)) = .error status := by
  have h := walkSteps_toBytes steps (count.toNat - steps.length) more
  rw [Nat.add_sub_cancel' hcount, hwalk] at h
  rw [readSequence, h]

/-- Whole steps, as many as the step count, and a step count or an address out of its range or a spare bit set. -/
theorem readSequence_badField {tagOk : Bool} {count : Byte} {steps : List SeqStep} (hcount : steps.length = count.toNat)
    (h : count.toNat = 0 ∨ 8 < count.toNat ∨ tagOk = false ∨
      ∃ st ∈ steps, 0x400000 ≤ st.address ∧ st.address < 0x1000000) :
    readSequence tagOk (count :: (steps.map SeqStep.toBytes).flatten) = .error .badField := by
  have hwalk := walkSteps_toBytes steps 0 []
  rw [Nat.add_zero, hcount, List.append_nil] at hwalk
  rw [readSequence, hwalk]
  refine if_neg fun hok => ?_
  simp only [Bool.and_eq_true, decide_eq_true_eq, List.all_eq_true, List.append_nil, List.mem_map,
    forall_exists_index, and_imp, forall_apply_eq_imp_iff₂] at hok
  obtain ⟨⟨⟨htag, hpos⟩, hmax⟩, haddress⟩ := hok
  have hspace : Config.addressSpace = 0x400000 := rfl
  rcases h with h | h | h | ⟨st, hst, hlow, hhigh⟩
  · omega
  · omega
  · rw [h] at htag
    cases htag
  · have hread : st.asRead.address = st.address := Nat.mod_eq_of_lt hhigh
    have := haddress st hst
    omega

/-! ## The checks that follow (R71) -/

theorem kind_of_readRead {tagOk : Bool} {body : List Byte} {r : LinkRequest} (h : readRead tagOk body = .ok r) :
    r.kind = .read := by
  obtain ⟨-, h⟩ := ofLength_eq_ok.mp h
  split at h
  · obtain ⟨-, rfl⟩ := checked_eq_ok.mp h
    rfl
  · cases h

theorem kind_of_readWrite {tagOk : Bool} {body : List Byte} {r : LinkRequest} (h : readWrite tagOk body = .ok r) :
    r.kind = .write := by
  obtain ⟨-, h⟩ := Except.ok_of_ite_error h
  split at h
  · cases h
  · obtain ⟨-, h⟩ := ofLength_eq_ok.mp h
    split at h
    · cases h
    · obtain ⟨-, rfl⟩ := checked_eq_ok.mp h
      rfl

theorem kind_of_readSequence {tagOk : Bool} {body : List Byte} {r : LinkRequest}
    (h : readSequence tagOk body = .ok r) : r.kind = .sequence := by
  unfold readSequence at h
  split at h
  · cases h
  · split at h
    · cases h
    · obtain ⟨-, rfl⟩ := checked_eq_ok.mp h
      rfl

/-- What the body of a kind is read as is a request of that kind (R68 to R70). -/
theorem Kind.kind_of_busBody {k : Kind} (hk : k = .read ∨ k = .write ∨ k = .sequence) {tagByte : Byte}
    {body : List Byte} {r : LinkRequest} (h : k.busBody tagByte body = .ok r) : r.kind = k := by
  rcases hk with rfl | rfl | rfl
  exacts [kind_of_readRead h, kind_of_readWrite h, kind_of_readSequence h]

theorem LinkRequest.outsideStatus_eq (r : LinkRequest) :
    r.outsideStatus = if r.kind = .sequence then .badSequence else .unmapped := by
  cases r <;> rfl

/-- The checks read the windows and the length of the queue alone. -/
theorem State.checkBus_congr {s x : State} (hwindows : x.windows = s.windows) (hqueue : x.queue = s.queue)
    (force : Bool) (r : LinkRequest) : x.checkBus force r = s.checkBus force r := by
  rw [State.checkBus, State.checkBus, State.firstWindow_congr hwindows]
  cases s.firstWindow r with
  | none => rfl
  | some w =>
    dsimp only
    rw [State.window_congr hwindows, State.queueFull, State.queueFull, hqueue]

section Checks

variable {s : State} {r : LinkRequest} {w : WinId} {force : Bool}

theorem State.checkBus_unmapped (hfirst : s.firstWindow r = none) : s.checkBus force r = .error .unmapped := by
  simp only [State.checkBus, hfirst]

variable (hfirst : s.firstWindow r = some w)
include hfirst

theorem State.checkBus_accessDenied (hrights : r.permittedBy (s.window w).fields.rights = false) :
    s.checkBus force r = .error .accessDenied := by
  simp only [State.checkBus, hfirst, hrights, Bool.not_false, if_true]

variable (hrights : r.permittedBy (s.window w).fields.rights = true)
include hrights

theorem State.checkBus_misaligned (haligned : r.aligned = false) : s.checkBus force r = .error .misaligned := by
  simp only [State.checkBus, hfirst, hrights, haligned, Bool.not_true, Bool.not_false, Bool.false_eq_true, if_false,
    if_true]

variable (haligned : r.aligned = true)
include haligned

theorem State.checkBus_outside (hinside : r.inside (s.window w) = false) :
    s.checkBus force r = .error r.outsideStatus := by
  simp only [State.checkBus, hfirst, hrights, haligned, hinside, Bool.not_true, Bool.not_false, Bool.false_eq_true,
    if_false, if_true]

variable (hinside : r.inside (s.window w) = true)
include hinside

theorem State.checkBus_windowFailed (hforce : force = false) (hfailed : (s.window w).health.state = .failed) :
    s.checkBus force r = .error .windowFailed := by
  simp only [State.checkBus, hfirst, hrights, haligned, hinside, hforce, hfailed, Bool.not_true, Bool.not_false,
    Bool.false_eq_true, if_false, decide_true, Bool.and_true, if_true]

theorem State.checkBus_queueFull (hhealth : force = true ∨ (s.window w).health.state ≠ .failed)
    (hfull : 12 ≤ s.queue.length) : s.checkBus force r = .error .queueFull := by
  have hserved : (!force && decide ((s.window w).health.state = .failed)) = false := by
    rcases hhealth with h | h <;> simp [h]
  have hfull : s.queueFull = true := decide_eq_true hfull
  simp only [State.checkBus, hfirst, hrights, haligned, hinside, hserved, hfull, Bool.not_true, Bool.false_eq_true,
    if_false, if_true]

end Checks

/-! ## The refusal (R147, R171) -/

theorem refusalBody_of_bus {k : Kind} (hk : k = .read ∨ k = .write ∨ k = .sequence) (status : Status) :
    refusalBody k status = [status.code, 0x00#8] := by
  rcases hk with rfl | rfl | rfl <;> rfl

/-- A new bus request whose body cannot be read, or that fails a later check, is answered with that status alone. -/
theorem exec_bus_refused {s : State} (h : s.phase = .running) {k : Kind} (hk : k = .read ∨ k = .write ∨ k = .sequence)
    {tagByte : Byte} {tag : Tag} {body : List Byte} {status : Status} (hnew : s.isNew tagByte tag)
    (hfails : k.busBody tagByte body = .error status ∨
      ∃ r, k.busBody tagByte body = .ok r ∧ s.checkBus (forceOf tagByte) r = .error status) :
    ∃ t, exec (k.command tagByte body) s = .next t ∧
      s.refusedWith t tag tagByte
        { kind := replyKind k.code, tagByte := tagByte, body := [status.code, 0x00#8] } := by
  obtain ⟨x, hexec, hx⟩ := exec_new h hnew (State.take_of_bus hk s.transmit.hear tagByte body _)
  obtain ⟨hwindows, hqueue, -⟩ := State.judging_fields hx
  have hrefuse : x.newBus k tag tagByte (k.busBody tagByte body) = x.refuse k tag tagByte status := by
    rcases hfails with hbody | ⟨r, hbody, hcheck⟩
    · simp only [State.newBus, hbody]
    · simp only [State.newBus, hbody, State.checkBus_congr hwindows hqueue, hcheck]
  have hgiven := State.refuse_given hx k tagByte status
  rw [refusalBody_of_bus hk] at hgiven
  exact ⟨_, hexec, by rw [hrefuse]; exact hgiven⟩

/-- Settles O17: each way to fail is a failing reader or the first failing check of R71, and the readers fail on the
bodies of R68 to R70. -/
theorem busRequestRefused : Obligations.BusRequestRefused := by
  refine ⟨fun s k tagByte tag body status h hk hnew hfails => exec_bus_refused h hk hnew (hfails.imp_right ?_),
    fun tagByte body => ⟨fun hlength => readRead_badLength hlength _, readRead_badField⟩,
    fun tagByte body => ⟨fun hshort => readWrite_short hshort _,
      fun hlength hunit => readWrite_badUnit hlength hunit _,
      fun hlength hunit hno => readWrite_badLength hlength hunit hno _, readWrite_badField⟩,
    fun _ => rfl, fun tagByte count steps more => ?_⟩
  · rintro ⟨r, hbody, hcheck⟩
    refine ⟨r, hbody, ?_⟩
    rcases hcheck with ⟨hfirst, rfl⟩ | ⟨w, hfirst, hcheck⟩
    · exact State.checkBus_unmapped hfirst
    rcases hcheck with ⟨hrights, rfl⟩ | ⟨hrights, haligned, rfl⟩ | ⟨hrights, haligned, hinside, rfl⟩ |
      ⟨hrights, haligned, hinside, hforce, hfailed, rfl⟩ | ⟨hrights, haligned, hinside, hhealth, hfull, rfl⟩
    · exact State.checkBus_accessDenied hfirst hrights
    · exact State.checkBus_misaligned hfirst hrights haligned
    · rw [State.checkBus_outside hfirst hrights haligned hinside, r.outsideStatus_eq, Kind.kind_of_busBody hk hbody]
    · exact State.checkBus_windowFailed hfirst hrights haligned hinside hforce hfailed
    · exact State.checkBus_queueFull hfirst hrights haligned hinside hhealth hfull
  · have hcut : steps.length < count.toNat → ∃ n, count.toNat - steps.length = n + 1 := fun hlt =>
      ⟨count.toNat - steps.length - 1, by omega⟩
    refine ⟨fun hcount hmore => ?_, fun hcount hmore hfield => ?_, fun hlt hshort => ?_, fun hlt hlength hcode => ?_,
      fun op unit hlt hlength hop hunit hoperands => ?_⟩
    · exact readSequence_of_walkSteps_error hcount.le (by rw [hcount, Nat.sub_self, walkSteps_remaining hmore]) _
    · rw [hmore, List.append_nil]
      exact readSequence_badField hcount hfield
    all_goals
      obtain ⟨n, hn⟩ := hcut hlt
      refine readSequence_of_walkSteps_error hlt.le ?_ _
      rw [hn]
    · exact walkSteps_cutFields hshort n
    · exact walkSteps_badCode hlength hcode n
    · exact walkSteps_cutOperands hlength hop hunit hoperands n

end Sys2Proof.Machine
end

section
/-! PROOFS. Runs of good polls on a watch entry (R109 to R112) and runs of inputs to the health machine (R85, R86, R90).
A run of polls is counted by one lemma, `WatchEntry.evaluate_run`, from the state a count of them stands for; a run of
inputs by the state of the health machine in closed form. -/

namespace Sys2Proof.Machine

/-! ## An evaluation by the entry's mode (R108) -/

theorem WatchEntry.evaluate_condition {x : WatchEntry} (hmode : x.config.mode ≠ .track) (v : Value) :
    x.evaluate v =
      ({ x with
         state := (x.state.judgeCondition x.config.setCount x.config.clearCount (x.config.holds v)).1 },
       (x.state.judgeCondition x.config.setCount x.config.clearCount (x.config.holds v)).2) := by
  unfold WatchEntry.evaluate
  split
  · next htrack => exact absurd htrack hmode
  · rfl

theorem WatchEntry.evaluate_track {x : WatchEntry} (hmode : x.config.mode = .track) (v : Value) :
    x.evaluate v =
      ({ x with
         state := (x.state.follow x.config.setCount (v &&& x.config.mask) x.stored).1,
         stored := (x.state.follow x.config.setCount (v &&& x.config.mask) x.stored).2.1 },
       (x.state.follow x.config.setCount (v &&& x.config.mask) x.stored).2.2) := by
  unfold WatchEntry.evaluate
  rw [hmode]

/-! ## A run of polls -/

/-- When one poll that satisfies `P` takes an entry from `reach n` to `reach (n + 1)`, or to `done` if that makes the
count, consecutive such polls reach `done` at the last of them and report nothing before. -/
theorem WatchEntry.evaluate_run {x : WatchEntry} {P : Value → Prop} {reach : Nat → WatchState} {count : Nat}
    {done : WatchEntry × WatchReport} (hstart : x.state = reach 0)
    (hstep : ∀ n u, P u → ({ x with state := reach n } : WatchEntry).evaluate u =
      if n + 1 = count then done else ({ x with state := reach (n + 1) }, .none))
    {polls : List Value} {v : Value} (hpolls : ∀ u ∈ polls, P u) (hv : P v) :
    (polls.length + 1 < count →
      (polls.foldl (fun y u => (y.evaluate u).1) x).evaluate v =
        ({ x with state := reach (polls.length + 1) }, .none)) ∧
    (polls.length + 1 = count → (polls.foldl (fun y u => (y.evaluate u).1) x).evaluate v = done) := by
  have hrun : polls.length < count →
      polls.foldl (fun y u => (y.evaluate u).1) x = { x with state := reach polls.length } := by
    clear hv
    induction polls using List.reverseRecOn with
    | nil => intro _; rw [List.length_nil, ← hstart]; rfl
    | append_singleton polls u ih =>
      intro hlt
      rw [List.length_append, List.length_singleton] at hlt
      have hbefore := ih (fun w hw => hpolls w (List.mem_append_left _ hw)) (by omega)
      rw [List.foldl_append, List.foldl_cons, List.foldl_nil, hbefore, hstep _ u (hpolls u (by simp)),
        if_neg hlt.ne, List.length_append, List.length_singleton]
  refine ⟨fun hlt => ?_, fun hlast => ?_⟩
  · rw [hrun (by omega), hstep _ v hv, if_neg hlt.ne]
  · rw [hrun (by omega), hstep _ v hv, if_pos hlast]

/-! ## MATCH and DIFFER (R109, R110) -/

/-- A MATCH or DIFFER entry on the way up after `n` consecutive good polls on which its condition held. -/
def WatchState.risen : Nat → WatchState
  | 0 => .quiet
  | n + 1 => .rising (n + 1)

/-- A MATCH or DIFFER entry on the way down after `n` consecutive good polls on which its condition failed. -/
def WatchState.fallen : Nat → WatchState
  | 0 => .raised
  | n + 1 => .falling (n + 1)

theorem WatchState.judgeCondition_risen (setCount clearCount n : Nat) :
    (WatchState.risen n).judgeCondition setCount clearCount true =
      if n + 1 = setCount then (.raised, .raised) else (.risen (n + 1), .none) := by
  cases n with
  | zero => simp only [risen, judgeCondition, if_true, Nat.zero_add, eq_comm]
  | succ n => simp only [risen, judgeCondition, if_true]

theorem WatchState.judgeCondition_fallen (setCount clearCount n : Nat) :
    (WatchState.fallen n).judgeCondition setCount clearCount false =
      if n + 1 = clearCount then (.quiet, .cleared) else (.fallen (n + 1), .none) := by
  cases n with
  | zero => simp only [fallen, judgeCondition, Bool.false_eq_true, if_false, Nat.zero_add, eq_comm]
  | succ n => simp only [fallen, judgeCondition, Bool.false_eq_true, if_false]

section Condition

variable {x : WatchEntry} (hmode : x.config.mode ≠ .track)
include hmode

theorem WatchEntry.evaluate_risen (n : Nat) {u : Value} (hholds : x.config.holds u = true) :
    ({ x with state := .risen n } : WatchEntry).evaluate u =
      if n + 1 = x.config.setCount then ({ x with state := .raised }, .raised)
      else ({ x with state := .risen (n + 1) }, .none) := by
  rw [WatchEntry.evaluate_condition (x := { x with state := .risen n }) hmode]
  simp only [hholds, WatchState.judgeCondition_risen]
  split <;> rfl

theorem WatchEntry.evaluate_fallen (n : Nat) {u : Value} (hfails : x.config.holds u = false) :
    ({ x with state := .fallen n } : WatchEntry).evaluate u =
      if n + 1 = x.config.clearCount then ({ x with state := .quiet }, .cleared)
      else ({ x with state := .fallen (n + 1) }, .none) := by
  rw [WatchEntry.evaluate_condition (x := { x with state := .fallen n }) hmode]
  simp only [hfails, WatchState.judgeCondition_fallen]
  split <;> rfl

/-- S consecutive good polls on which the condition holds raise a QUIET entry. -/
theorem WatchEntry.evaluate_rising_run (hquiet : x.state = .quiet) {polls : List Value} {v : Value}
    (hholds : ∀ u ∈ polls ++ [v], x.config.holds u = true) :
    (polls.length + 1 < x.config.setCount →
      (polls.foldl (fun y u => (y.evaluate u).1) x).evaluate v =
        ({ x with state := .rising (polls.length + 1) }, .none)) ∧
    (polls.length + 1 = x.config.setCount →
      (polls.foldl (fun y u => (y.evaluate u).1) x).evaluate v = ({ x with state := .raised }, .raised)) :=
  WatchEntry.evaluate_run (reach := .risen) hquiet (fun n _ => WatchEntry.evaluate_risen hmode n)
    (fun u hu => hholds u (List.mem_append_left _ hu)) (hholds v (by simp))

/-- C consecutive good polls on which the condition fails clear a RAISED entry. -/
theorem WatchEntry.evaluate_falling_run (hraised : x.state = .raised) {polls : List Value} {v : Value}
    (hfails : ∀ u ∈ polls ++ [v], x.config.holds u = false) :
    (polls.length + 1 < x.config.clearCount →
      (polls.foldl (fun y u => (y.evaluate u).1) x).evaluate v =
        ({ x with state := .falling (polls.length + 1) }, .none)) ∧
    (polls.length + 1 = x.config.clearCount →
      (polls.foldl (fun y u => (y.evaluate u).1) x).evaluate v = ({ x with state := .quiet }, .cleared)) :=
  WatchEntry.evaluate_run (reach := .fallen) hraised (fun n _ => WatchEntry.evaluate_fallen hmode n)
    (fun u hu => hfails u (List.mem_append_left _ hu)) (hfails v (by simp))

/-- A single poll on which the condition fails sends an entry below RAISED to QUIET. -/
theorem WatchEntry.evaluate_risen_fails {n : Nat} (hstate : x.state = .quiet ∨ x.state = .rising n) {v : Value}
    (hfails : x.config.holds v = false) : x.evaluate v = ({ x with state := .quiet }, .none) := by
  rw [WatchEntry.evaluate_condition hmode, hfails]
  rcases hstate with hstate | hstate <;> rw [hstate] <;> rfl

/-- A single poll on which the condition holds sends an entry that is RAISED or FALLING to RAISED. -/
theorem WatchEntry.evaluate_fallen_holds {n : Nat} (hstate : x.state = .raised ∨ x.state = .falling n) {v : Value}
    (hholds : x.config.holds v = true) : x.evaluate v = ({ x with state := .raised }, .none) := by
  rw [WatchEntry.evaluate_condition hmode, hholds]
  rcases hstate with hstate | hstate <;> rw [hstate] <;> rfl

end Condition

/-! ## TRACK (R111, R112) -/

/-- A TRACK entry after `n` consecutive good polls of the masked value `m`, which is not its stored value. -/
def WatchState.settled (m : Value) : Nat → WatchState
  | 0 => .steady
  | n + 1 => .settling m (n + 1)

theorem WatchState.follow_settled (setCount : Nat) {m stored : Value} (hne : m ≠ stored) (n : Nat) :
    (WatchState.settled m n).follow setCount m (some stored) =
      if n + 1 = setCount then (.steady, some m, .changed stored m)
      else (.settled m (n + 1), some stored, .none) := by
  cases n with
  | zero => simp only [settled, follow, Option.getD_some, if_neg hne, Nat.zero_add, eq_comm]
  | succ n => simp only [settled, follow, Option.getD_some, if_neg hne, if_true]

section Track

variable {x : WatchEntry} (hmode : x.config.mode = .track)
include hmode

/-- The first masked value of a TRACK entry is stored unreported. -/
theorem WatchEntry.evaluate_notSet (hstate : x.state = .notSet) (u : Value) :
    x.evaluate u = ({ x with state := .steady, stored := some (u &&& x.config.mask) }, .none) := by
  rw [WatchEntry.evaluate_track hmode, hstate]
  rfl

variable {stored : Value} (hstored : x.stored = some stored)
include hstored

/-- The stored value takes a TRACK entry to STEADY, or leaves it there. -/
theorem WatchEntry.evaluate_stored {candidate : Value} {n : Nat}
    (hstate : x.state = .steady ∨ x.state = .settling candidate n) {u : Value} (heq : u &&& x.config.mask = stored) :
    x.evaluate u = ({ x with state := .steady }, .none) := by
  rw [WatchEntry.evaluate_track hmode, heq]
  rcases hstate with hstate | hstate <;>
    simp only [hstate, hstored, WatchState.follow, Option.getD_some, if_true]

/-- A third value starts SETTLING anew. -/
theorem WatchEntry.evaluate_third {candidate : Value} {n : Nat} (hstate : x.state = .settling candidate n) {u : Value}
    (hne : u &&& x.config.mask ≠ stored) (hthird : u &&& x.config.mask ≠ candidate) :
    x.evaluate u = ({ x with state := .settling (u &&& x.config.mask) 1 }, .none) := by
  rw [WatchEntry.evaluate_track hmode]
  simp only [hstate, hstored, WatchState.follow, Option.getD_some, if_neg hne, if_neg hthird]

theorem WatchEntry.evaluate_settled {m : Value} (hne : m ≠ stored) (n : Nat) {u : Value}
    (hmasked : u &&& x.config.mask = m) :
    ({ x with state := .settled m n } : WatchEntry).evaluate u =
      if n + 1 = x.config.setCount then ({ x with state := .steady, stored := some m }, .changed stored m)
      else ({ x with state := .settled m (n + 1) }, .none) := by
  rw [WatchEntry.evaluate_track (x := { x with state := .settled m n }) hmode]
  simp only [hmasked, hstored, WatchState.follow_settled _ hne]
  split
  · rfl
  · rw [← hstored]

/-- A new masked value held for S consecutive good polls is reported and stored at the last of them. -/
theorem WatchEntry.evaluate_settling_run (hsteady : x.state = .steady) {m : Value} (hne : m ≠ stored)
    {polls : List Value} {u : Value} (hpolls : ∀ w ∈ polls, w &&& x.config.mask = m)
    (hmasked : u &&& x.config.mask = m) :
    (polls.length + 1 < x.config.setCount →
      (polls.foldl (fun y w => (y.evaluate w).1) x).evaluate u =
        ({ x with state := .settling m (polls.length + 1) }, .none)) ∧
    (polls.length + 1 = x.config.setCount →
      (polls.foldl (fun y w => (y.evaluate w).1) x).evaluate u =
        ({ x with state := .steady, stored := some m }, .changed stored m)) :=
  WatchEntry.evaluate_run (reach := .settled m) hsteady
    (fun n _ => WatchEntry.evaluate_settled hmode hstored hne n) hpolls hmasked

end Track

/-! ## The health machine's table, row by row (R86) -/

theorem Health.take_neutral (h : Health) (d c : Nat) : h.take d c .neutral = (h, .none) := rfl

section Rows

variable {h : Health} (d c : Nat)

theorem Health.take_healthy_success (hstate : h.state = .healthy) : (h.take d c .success).1 = h := by
  simp only [Health.take, hstate]

theorem Health.take_healthy_failure (hstate : h.state = .healthy) :
    (h.take d c .failure).1 = { state := .suspect, failureRun := 1, successRun := 0 } := by
  simp only [Health.take, hstate]

theorem Health.take_suspect_success (hstate : h.state = .suspect) : (h.take d c .success).1 = Health.fresh := by
  simp only [Health.take, hstate]

theorem Health.take_suspect_failure (hstate : h.state = .suspect) :
    (h.take d c .failure).1 =
      if h.failureRun + 1 = d then { state := .failed, failureRun := d, successRun := 0 }
      else { state := .suspect, failureRun := h.failureRun + 1, successRun := 0 } := by
  simp only [Health.take, hstate]
  split <;> rfl

theorem Health.take_failed_success (hstate : h.state = .failed) :
    (h.take d c .success).1 =
      if h.successRun + 1 = c then Health.fresh else { h with successRun := h.successRun + 1 } := by
  simp only [Health.take, hstate]
  split <;> rfl

theorem Health.take_failed_failure (hstate : h.state = .failed) :
    (h.take d c .failure).1 = { h with successRun := 0 } := by
  simp only [Health.take, hstate]

end Rows

/-! ## Runs of inputs (R85, R86, R90) -/

/-- The health of a window with declare count `d` after `n` failures since HEALTHY and no success. -/
def Health.afterFailures (d n : Nat) : Health :=
  if n = 0 then .fresh
  else if n < d then { state := .suspect, failureRun := n, successRun := 0 }
  else { state := .failed, failureRun := d, successRun := 0 }

theorem Health.afterFailures_of_le {d n : Nat} (hd : 2 ≤ d) (h : d ≤ n) :
    Health.afterFailures d n = { state := .failed, failureRun := d, successRun := 0 } := by
  rw [Health.afterFailures, if_neg (by omega), if_neg (by omega)]

theorem Health.afterFailures_of_lt {d n : Nat} (hn : 1 ≤ n) (h : n < d) :
    Health.afterFailures d n = { state := .suspect, failureRun := n, successRun := 0 } := by
  rw [Health.afterFailures, if_neg (by omega), if_pos h]

/-- A window is FAILED once its failures reach the declare count, and then keeps that count as its failure run. -/
theorem Health.afterFailures_state {d : Nat} (hd : 2 ≤ d) (n : Nat) :
    ((Health.afterFailures d n).state = .failed ↔ d ≤ n) ∧
      ((Health.afterFailures d n).state = .failed → (Health.afterFailures d n).failureRun = d) := by
  unfold Health.afterFailures
  split
  · exact ⟨⟨nofun, fun hle => by omega⟩, nofun⟩
  · split
    · exact ⟨⟨nofun, fun hle => by omega⟩, nofun⟩
    · next hge => exact ⟨⟨fun _ => by omega, fun _ => rfl⟩, fun _ => rfl⟩

theorem Health.take_failure_afterFailures {d : Nat} (hd : 2 ≤ d) (c n : Nat) :
    ((Health.afterFailures d n).take d c .failure).1 = .afterFailures d (n + 1) := by
  rcases Nat.eq_zero_or_pos n with rfl | hn
  · rw [Health.afterFailures_of_lt le_rfl (by omega)]
    exact Health.take_healthy_failure d c rfl
  rcases lt_or_ge n d with hlt | hge
  · rw [Health.afterFailures_of_lt hn hlt, Health.take_suspect_failure d c rfl]
    dsimp only
    split
    · next hlast => rw [Health.afterFailures_of_le hd (by omega)]
    · next hmore => rw [Health.afterFailures_of_lt (by omega) (by omega)]
  · rw [Health.afterFailures_of_le hd hge, Health.afterFailures_of_le hd (by omega)]
    exact Health.take_failed_failure d c rfl

/-- Without a success, the failures alone decide the health of a window that began HEALTHY. -/
theorem Health.foldl_take_of_no_success {d : Nat} (hd : 2 ≤ d) (c : Nat) {inputs : List HealthInput}
    (hinputs : ∀ i ∈ inputs, i ≠ .success) :
    inputs.foldl (fun h i => (h.take d c i).1) Health.fresh = .afterFailures d (inputs.count .failure) := by
  induction inputs using List.reverseRecOn with
  | nil => rfl
  | append_singleton inputs i ih =>
    have hbefore := ih fun j hj => hinputs j (List.mem_append_left _ hj)
    have hi : i ≠ .success := hinputs i (by simp)
    rw [List.foldl_append, List.foldl_cons, List.foldl_nil, hbefore, List.count_append]
    cases i with
    | success => exact absurd rfl hi
    | neutral => rfl
    | failure => exact Health.take_failure_afterFailures hd c _

/-- The health of a window with clear count `c`, FAILED as `h`, after `n` successes and no failure. -/
def Health.afterSuccesses (h : Health) (c n : Nat) : Health :=
  if n < c then { h with successRun := n } else .fresh

theorem Health.take_success_afterSuccesses {h : Health} (hfailed : h.state = .failed) (d c n : Nat) :
    ((h.afterSuccesses c n).take d c .success).1 = h.afterSuccesses c (n + 1) := by
  unfold Health.afterSuccesses
  by_cases hlt : n < c
  · have hrow := Health.take_failed_success (h := { h with successRun := n }) d c hfailed
    rw [if_pos hlt, hrow]
    dsimp only
    split
    · next hlast => rw [if_neg (by omega)]
    · next hmore => rw [if_pos (by omega)]
  · rw [if_neg hlt, if_neg (by omega)]
    exact Health.take_healthy_success d c rfl

/-- Without a failure, the successes alone decide the health of a FAILED window. -/
theorem Health.foldl_take_of_no_failure {h : Health} (hfailed : h.state = .failed) (hrun : h.successRun = 0) (d : Nat)
    {c : Nat} (hc : 1 ≤ c) {inputs : List HealthInput} (hinputs : ∀ i ∈ inputs, i ≠ .failure) :
    inputs.foldl (fun g i => (g.take d c i).1) h = h.afterSuccesses c (inputs.count .success) := by
  induction inputs using List.reverseRecOn with
  | nil => rw [List.count_nil, Health.afterSuccesses, if_pos (by omega), ← hrun]; rfl
  | append_singleton inputs i ih =>
    have hbefore := ih fun j hj => hinputs j (List.mem_append_left _ hj)
    have hi : i ≠ .failure := hinputs i (by simp)
    rw [List.foldl_append, List.foldl_cons, List.foldl_nil, hbefore, List.count_append]
    cases i with
    | success => exact Health.take_success_afterSuccesses hfailed d c _
    | neutral => rfl
    | failure => exact absurd rfl hi

/-- A FAILED window is HEALTHY again once the successes reach the clear count, and till then only counts them. -/
theorem Health.afterSuccesses_state {h : Health} (hfailed : h.state = .failed) (c n : Nat) :
    ((h.afterSuccesses c n).state = .healthy ↔ c ≤ n) ∧
      ((h.afterSuccesses c n).state ≠ .healthy → h.afterSuccesses c n = { h with successRun := n }) := by
  unfold Health.afterSuccesses
  split
  · next hlt =>
    refine ⟨⟨fun hhealthy => ?_, fun hle => absurd hlt (by omega)⟩, fun _ => rfl⟩
    exact nomatch hfailed.symm.trans hhealthy
  · next hge => exact ⟨⟨fun _ => by omega, fun _ => rfl⟩, fun hne => absurd rfl hne⟩

/-! ## The obligation -/

/-- Settles O50: a run of polls by `WatchEntry.evaluate_run`, a run of health inputs by the health in closed form, and
the rest row by row. -/
theorem runsAreCounted : Obligations.RunsAreCounted := by
  refine ⟨fun x polls v hmode => ?_, fun x polls u m stored hmode hm => ?_, fun d c inputs hd hinputs => ?_,
    fun h d c => ?_, fun h d c inputs hc hfailed hrun hinputs => ?_⟩
  · refine ⟨⟨fun hstate hall => WatchEntry.evaluate_rising_run hmode hstate hall,
        fun hstate hall => WatchEntry.evaluate_falling_run hmode hstate hall⟩, fun hstate hfails => ?_,
      fun n hstate => WatchEntry.evaluate_risen_fails hmode (.inr hstate), fun hstate hholds => ?_,
      fun n hstate => WatchEntry.evaluate_fallen_holds hmode (.inr hstate)⟩
    · rw [WatchEntry.evaluate_risen_fails (n := 0) hmode (.inl hstate) hfails, ← hstate]
    · rw [WatchEntry.evaluate_fallen_holds (n := 0) hmode (.inl hstate) hholds, ← hstate]
  · subst hm
    refine ⟨fun hstate => WatchEntry.evaluate_notSet hmode hstate u, fun hstored => ⟨fun hstate heq => ?_,
      fun hstate hne hpolls => WatchEntry.evaluate_settling_run hmode hstored hstate hne hpolls rfl,
      fun candidate n hstate => ⟨WatchEntry.evaluate_stored hmode hstored (.inr hstate),
        WatchEntry.evaluate_third hmode hstored hstate⟩⟩⟩
    rw [WatchEntry.evaluate_stored (candidate := 0) (n := 0) hmode hstored (.inl hstate) heq, ← hstate]
  · rw [Health.foldl_take_of_no_success hd c hinputs,]
    exact Health.afterFailures_state hd _
  · refine ⟨by rw [Health.take_neutral], fun hstate => ?_, fun hstate => ?_, fun hstate => ?_⟩
    · exact ⟨Health.take_healthy_success d c hstate, Health.take_healthy_failure d c hstate⟩
    · rw [Health.take_suspect_failure d c hstate]
      exact ⟨Health.take_suspect_success d c hstate, fun hmore => if_neg hmore, fun hlast => if_pos hlast⟩
    · rw [Health.take_failed_success d c hstate]
      exact ⟨fun hmore => if_neg hmore, fun hlast => if_pos hlast, Health.take_failed_failure d c hstate⟩
  · rw [Health.foldl_take_of_no_failure hfailed hrun d hc hinputs]
    exact Health.afterSuccesses_state hfailed c _

end Sys2Proof.Machine
end

section
/-! PROOFS. The history rings run on without a gap and the poll queue names the outstanding polls (R104, R116, R121),
and every effect keeps it so: most touch neither, an interval end extends the rings, and a poll request joins the queue
and leaves it together with the outstanding flag of its entry. -/

namespace Sys2Proof.Machine

/-! ## Rings (R121) -/

/-- A record with the number after the newest goes on the run. -/
theorem ringRuns_append {ring : List Record} {last : Nat} (h : ringRuns ring last = true) {r : Record}
    (hr : r.number = nextInterval last) : ringRuns (ring ++ [r]) r.number = true := by
  induction ring with
  | nil => exact decide_eq_true rfl
  | cons q rest ih =>
    cases rest with
    | nil =>
      obtain rfl : q.number = last := of_decide_eq_true h
      simp [ringRuns, hr]
    | cons q' rest =>
      obtain ⟨hnext, hrest⟩ := (Bool.and_eq_true_iff ..).mp h
      exact (Bool.and_eq_true_iff ..).mpr ⟨hnext, ih hrest⟩

/-- A run that loses its oldest record runs on. -/
theorem ringRuns_tail {ring : List Record} {last : Nat} (h : ringRuns ring last = true) :
    ringRuns ring.tail last = true := by
  match ring, h with
  | [], _ => rfl
  | [_], _ => rfl
  | _ :: _ :: _, h => exact ((Bool.and_eq_true_iff ..).mp h).2

theorem pushRecord_length {ring : List Record} (h : ring.length ≤ Config.ringCapacity) (r : Record) :
    (pushRecord ring r).length ≤ Config.ringCapacity := by
  unfold pushRecord
  split
  · rw [List.length_append, List.length_singleton]
    omega
  · rw [List.length_append, List.length_tail, List.length_singleton]
    have : 1 ≤ Config.ringCapacity := by decide
    omega

theorem pushRecord_runs {ring : List Record} {last : Nat} (h : ringRuns ring last = true) {r : Record}
    (hr : r.number = nextInterval last) : ringRuns (pushRecord ring r) r.number = true := by
  unfold pushRecord
  split
  · exact ringRuns_append h hr
  · exact ringRuns_append (ringRuns_tail h) hr

/-- From `s` to `t` no window opens or closes, no record joins a ring and no interval ends. -/
structure State.RingFrame (s t : State) : Prop where
  isOpen : ∀ w, (t.window w).isOpen = (s.window w).isOpen
  ring : ∀ w, (t.statsOf w).ring = (s.statsOf w).ring
  intervalNumber : t.intervalNumber = s.intervalNumber

theorem State.RingLaw.of_frame {s t : State} (h : s.RingLaw) (hframe : s.RingFrame t) : t.RingLaw := by
  intro w
  rw [hframe.isOpen, hframe.ring, hframe.intervalNumber]
  exact h w

/-- A window request that passes writes one window, whose statistics are all 0 then (R18, R19, R116). -/
theorem State.RingLaw.setWindow_zero {s : State} (h : s.RingLaw) (w : WinId) (x : Window) :
    ((s.setWindow w x).setStats w .zero).RingLaw := by
  intro v
  rw [State.statsOf_setStats, State.window_setStats, State.window_setWindow, State.statsOf_setWindow]
  split
  · exact ⟨Nat.zero_le _, rfl, fun _ => rfl⟩
  · exact h v

/-- An interval end gives every OPEN window one record of its number (R119 to R121). -/
theorem State.RingLaw.intervalEnd {s : State} (h : s.RingLaw) : s.intervalEnd.RingLaw := by
  intro w
  obtain ⟨hlength, hruns, hclosed⟩ := h w
  have hstats : s.intervalEnd.statsOf w = s.closeInterval (nextInterval s.intervalNumber) w := by
    simp [State.statsOf, State.intervalEnd]
  rw [hstats, State.closeInterval, show s.intervalEnd.window w = s.window w from rfl]
  split
  · rename_i hopen
    exact ⟨pushRecord_length hlength _, pushRecord_runs hruns rfl, fun hno => nomatch hopen.symm.trans hno⟩
  · rename_i hno
    have hempty := hclosed (by simpa using hno)
    rw [hempty]
    exact ⟨Nat.zero_le _, rfl, fun _ => rfl⟩

/-! ## Poll requests (R104) -/

/-- The poll queue holds, once each, the requests that are outstanding. -/
theorem State.pollLaw_iff {s : State} :
    s.PollLaw ↔ s.pollQueue.Nodup ∧
      ∀ id, id ∈ s.pollQueue ↔ ∃ x, s.watchOf id = some x ∧ x.outstanding = true := by
  refine and_congr_right fun _ => forall_congr' fun id => ?_
  cases s.watchOf id with
  | none => simp
  | some x => cases hout : x.outstanding <;> simp [hout]

/-- An entry is written without an outstanding poll, or freed, and its request leaves the poll queue. -/
theorem State.PollLaw.without {s t : State} (h : s.PollLaw) {id : WatchId} {e : Option WatchEntry}
    (he : ∀ x, e = some x → x.outstanding = false) (hwatch : t.watch = (s.setWatch id e).watch)
    (hpolls : t.pollQueue = s.pollQueue.filter (fun y => y ≠ id)) : t.PollLaw := by
  obtain ⟨hnodup, hlisted⟩ := State.pollLaw_iff.mp h
  refine State.pollLaw_iff.mpr ⟨hpolls ▸ hnodup.filter _, fun other => ?_⟩
  rw [hpolls, State.watchOf_congr hwatch, State.watchOf_setWatch, List.mem_filter, hlisted, decide_eq_true_eq]
  by_cases hid : id = other
  · rw [if_pos hid]
    constructor
    · rintro ⟨-, hne⟩
      exact absurd hid.symm hne
    · rintro ⟨x, hx, hout⟩
      rw [he x hx] at hout
      cases hout
  · rw [if_neg hid]
    exact and_iff_left (Ne.symm hid)

/-- A WATCH_SET that passes its checks puts an UNUSED entry in use, of which nothing is queued (R98). -/
theorem State.PollLaw.setWatch_fresh {s : State} (h : s.PollLaw) {id : WatchId} {c : WatchConfig}
    (hcheck : s.checkWatch id c = none) : (s.setWatch id (some (.fresh c))).PollLaw := by
  have hunused : s.watchOf id = none := by
    unfold State.checkWatch at hcheck
    split at hcheck
    · cases hcheck
    · rename_i hnone
      exact Option.not_isSome_iff_eq_none.mp hnone
  have hnotListed : id ∉ s.pollQueue := by
    rw [(State.pollLaw_iff.mp h).2, hunused]
    exact nofun
  refine h.without (e := some (.fresh c)) (by rintro _ ⟨⟩; rfl) rfl (List.filter_eq_self.mpr fun y hy => ?_).symm
  exact decide_eq_true fun heq => hnotListed (heq ▸ hy)

theorem State.PollLaw.dropWatch {s : State} (h : s.PollLaw) (id : WatchId) : (s.dropWatch id).PollLaw :=
  h.without (e := none) nofun (by rw [State.dropWatch_eq]) (by rw [State.dropWatch_eq])

theorem State.PollLaw.congr {s t : State} (h : s.PollLaw) (hwatch : t.watch = s.watch)
    (hpolls : t.pollQueue = s.pollQueue) : t.PollLaw := by
  unfold State.PollLaw State.watchOf
  rwa [hwatch, hpolls]

/-- A poll turn that ends takes its request from the queue, its entry no longer outstanding (R107). -/
theorem State.PollLaw.pollEnds {s : State} (h : s.PollLaw) (id : WatchId) (x : WatchEntry) (o : Outcome) (v : Value) :
    (s.pollEnds id x o v).state.PollLaw := by
  rw [State.pollEnds_eq]
  exact h.without (e := some (x.polled o v).1) (by rintro _ ⟨⟩; exact (x.polled_counts o v).1) rfl rfl

/-- Whoever takes an outcome, what is outstanding stays queued (R106, R107). -/
theorem State.PollLaw.holderTakes {s : State} (h : s.PollLaw) (t : Turn) (o : Outcome) (lines : BusData) :
    (s.holderTakes t o lines).state.PollLaw := by
  by_cases hpoll : ∃ id, t.holder = .poll id
  · obtain ⟨id, hholder⟩ := hpoll
    cases hx : s.watchOf id with
    | none => simpa only [State.holderTakes, hholder, hx] using h
    | some x =>
      rw [State.holderTakes_poll o lines hholder hx]
      by_cases ho : o = .ok
      · subst ho
        unfold State.pollTakes
        dsimp only
        split
        · exact h
        · exact h.pollEnds ..
      · rw [State.pollTakes_fails s id x t ho]
        exact h.pollEnds ..
  · obtain ⟨hwatch, hpolls⟩ := State.holderTakes_polls (fun id hid => hpoll ⟨id, hid⟩) o lines
    exact h.congr hwatch hpolls

theorem State.PollLaw.holderPart {s : State} (h : s.PollLaw) (a : Access) (t : Turn) (o : Outcome) (lines : BusData) :
    (s.holderPart a t o lines).state.PollLaw :=
  have hcounted : ({ s with bus := { s.bus with gapRecord := a.gapAfter } }.countOutcome a.window o).PollLaw :=
    h.congr rfl rfl
  hcounted.holderTakes t o lines

theorem WatchEntry.tick_outstanding (x : WatchEntry) : x.tick.outstanding = (x.fallsDue || x.outstanding) := by
  unfold WatchEntry.tick
  split
  · next hdue => rw [hdue, Bool.true_or]
  · next hnot => rw [Bool.eq_false_of_not_eq_true hnot, Bool.false_or]

theorem WatchId.all_nodup : WatchId.all.Nodup := by decide

theorem State.mem_newPolls {s : State} {id : WatchId} :
    id ∈ s.newPolls ↔ ∃ x, s.watchOf id = some x ∧ x.fallsDue = true ∧ x.outstanding = false := by
  simp only [State.newPolls, List.mem_filter, WatchId.mem_all, true_and]
  cases s.watchOf id with
  | none => simp
  | some x => simp

/-- At a poll tick what falls due joins the poll queue, unless it is queued already (R103, R104). -/
theorem State.PollLaw.pollTick {s : State} (h : s.PollLaw) : s.pollTick.PollLaw := by
  obtain ⟨hnodup, hlisted⟩ := State.pollLaw_iff.mp h
  refine State.pollLaw_iff.mpr ⟨?_, fun id => ?_⟩
  · refine hnodup.append (WatchId.all_nodup.filter _) fun id hid hnew => ?_
    obtain ⟨x, hx, -, hout⟩ := State.mem_newPolls.mp hnew
    obtain ⟨y, hy, hyout⟩ := (hlisted id).mp hid
    obtain rfl := Option.some.inj (hx.symm.trans hy)
    cases hout.symm.trans hyout
  · rw [State.pollTick_pollQueue, List.mem_append, hlisted, State.mem_newPolls, State.pollTick_watchOf]
    cases s.watchOf id with
    | none => simp
    | some x =>
      simp only [Option.some.injEq, exists_eq_left', Option.map_some, WatchEntry.tick_outstanding, Bool.or_eq_true]
      cases x.outstanding <;> simp

/-! ## Every effect -/

/-- Both laws go over from `s` to `t`. -/
def State.KeepsRingAndPollLaws (s t : State) : Prop := (s.RingLaw → t.RingLaw) ∧ (s.PollLaw → t.PollLaw)

/-- What the two laws speak of is in `t` as it is in `s`. -/
structure State.SameRecords (s t : State) : Prop where
  windows : t.windows = s.windows
  stats : t.stats = s.stats
  intervalNumber : t.intervalNumber = s.intervalNumber
  watch : t.watch = s.watch
  pollQueue : t.pollQueue = s.pollQueue

theorem State.SameRecords.keeps {s t : State} (h : s.SameRecords t) : s.KeepsRingAndPollLaws t :=
  ⟨fun hring => hring.of_frame
    ⟨fun w => by rw [State.window_congr h.windows], fun w => by rw [State.statsOf_congr h.stats], h.intervalNumber⟩,
    fun hpoll => hpoll.congr h.watch h.pollQueue⟩

theorem State.sameRecords_of_bus {s t : State} (h : t = { s with bus := t.bus }) : s.SameRecords t := by
  rw [h]
  exact ⟨rfl, rfl, rfl, rfl, rfl⟩

theorem State.sameRecords_complete (s : State) (e : LinkEntry) (status : Status) :
    s.SameRecords (s.complete e status) := by
  constructor <;> simp

theorem State.sameRecords_abortEntry (s : State) (e : LinkEntry) : s.SameRecords (s.abortEntry e) := by
  unfold State.abortEntry
  repeat' split
  all_goals constructor <;> simp

theorem State.sameRecords_grant (s : State) : s.SameRecords s.grant := by
  unfold State.grant State.grantLink State.grantPoll
  repeat' split
  all_goals constructor <;> simp

theorem State.sameRecords_backoffEnd (s : State) (t : Tag) : s.SameRecords (s.backoffEnd t) := by
  unfold State.backoffEnd
  repeat' split
  all_goals constructor <;> rfl

theorem State.sameRecords_deadlinePasses (s : State) (t : Tag) : s.SameRecords (s.deadlinePasses t) := by
  unfold State.deadlinePasses
  repeat' split
  all_goals constructor <;> simp

theorem State.sameRecords_frameEnd (s : State) : s.SameRecords s.frameEnd := by
  unfold State.frameEnd
  dsimp only
  repeat' split
  all_goals constructor <;> rfl

/-- A reset leaves the records as they are right after power-on, where the laws hold (R40, R116, R121). -/
theorem State.keepsRingAndPollLaws_of_reset (s : State) {t : State} (h : State.reset.SameRecords t) :
    s.KeepsRingAndPollLaws t :=
  ⟨fun _ => h.keeps.1 State.reset_ringLaw, fun _ => h.keeps.2 State.reset_pollLaw⟩

theorem State.sameRecords_boot (s : State) (cause : ResetCause) (rate : BitVec 2) :
    State.reset.SameRecords (s.boot cause rate) := by
  rw [State.boot_eq]
  exact ⟨rfl, rfl, rfl, rfl, rfl⟩

/-- A window request is completed, after it was written to its window if its checks passed (R16 to R19). -/
theorem State.keepsRingAndPollLaws_takesEffect (s : State) (w : WinId) :
    s.KeepsRingAndPollLaws (s.takesEffect w) := by
  unfold State.takesEffect State.applyWindowRequest
  split
  · exact ⟨id, id⟩
  · rename_i e _
    split
    · exact (s.sameRecords_complete e _).keeps
    · obtain ⟨hring, hpoll⟩ := (State.sameRecords_complete
        ((s.setWindow w ((s.window w).after e.request)).setStats w .zero) e .ok).keeps
      exact ⟨fun h => hring (h.setWindow_zero w _), hpoll⟩

theorem State.ringFrame_clearCounters (s : State) (w : WinId) :
    s.RingFrame (s.setStats w { s.statsOf w with counters := .zero }) := by
  refine ⟨fun _ => rfl, fun v => ?_, rfl⟩
  rw [State.statsOf_setStats]
  split
  · subst v; rfl
  · rfl

theorem WindowStats.countOutcome_ring (x : WindowStats) (o : Outcome) : (x.countOutcome o).ring = x.ring := by
  cases o <;> rfl

/-- A delivery counts, and adds no record (R117). -/
theorem State.deliver_ringFrame (s : State) (a : Access) (t : Turn) (o : Outcome) (lines : BusData) :
    s.RingFrame (s.deliver a t o lines).1 := by
  obtain ⟨-, -, -, -, -, -, -, -, hnumber, -⟩ := s.deliver_frame a t o lines
  refine ⟨(s.deliver_tableFrame a t o lines).isOpen, fun w => ?_, hnumber⟩
  rw [State.deliver_statsOf]
  split
  · dsimp only
    split <;> exact WindowStats.countOutcome_ring _ o
  · rfl

/-- The end of an access counts its outcome and may end a poll (R29, R107, R117). -/
theorem State.keepsRingAndPollLaws_accessEnd (s : State) (ready : List Bool) (deferred : Bool) (lines : BusData) :
    s.KeepsRingAndPollLaws (s.accessEnd ready deferred lines) := by
  unfold State.accessEnd
  split
  · rename_i a t _ _
    obtain ⟨hring, hpoll⟩ := (State.sameRecords_of_bus (State.continueTurn_eq
      (s.deliver a t (a.profile.outcome ready deferred) lines).1 t
      (s.deliver a t (a.profile.outcome ready deferred) lines).2)).keeps
    refine ⟨fun h => hring (h.of_frame (s.deliver_ringFrame ..)), fun h => hpoll ?_⟩
    obtain ⟨-, -, -, -, -, -, -, -, -, -, -, -, -, hwatch, hpolls, -⟩ :=
      s.deliver_frame a t (a.profile.outcome ready deferred) lines
    exact (h.holderPart a t _ lines).congr hwatch hpolls
  · exact ⟨id, id⟩

/-- Every effect keeps both laws. -/
theorem effectsWithin_keepsRingAndPollLaws : EffectsWithin State.KeepsRingAndPollLaws where
  refl _ := ⟨id, id⟩
  trans h h' := ⟨h'.1 ∘ h.1, h'.2 ∘ h.2⟩
  transmit s := State.SameRecords.keeps (by constructor <;> simp)
  deferTimer _ := ⟨id, id⟩
  receiver _ _ := ⟨id, id⟩
  hear _ := ⟨id, id⟩
  answer _ _ _ _ _ := ⟨id, id⟩
  countDuplicate _ := ⟨id, id⟩
  list {s t} _ := State.SameRecords.keeps (by rw [State.list_eq]; constructor <;> rfl)
  clearTag _ := ⟨id, id⟩
  store _ _ _ := State.SameRecords.keeps (by constructor <;> simp)
  accept _ _ := ⟨id, id⟩
  setWatch hcheck := ⟨id, fun h => h.setWatch_fresh hcheck⟩
  dropWatch s id := ⟨fun h => h.of_frame (by rw [State.dropWatch_eq]; exact ⟨fun _ => rfl, fun _ => rfl, rfl⟩),
    fun h => h.dropWatch id⟩
  clearCounters s w := ⟨fun h => h.of_frame (s.ringFrame_clearCounters w), id⟩
  setTiming _ _ := ⟨id, id⟩
  acknowledge _ _ := ⟨id, id⟩
  abortEntry _ := (State.sameRecords_abortEntry _ _).keeps
  restarted s := State.SameRecords.keeps (by unfold State.restarted; constructor <;> simp)
  grant s := s.sameRecords_grant.keeps
  accessEnd := State.keepsRingAndPollLaws_accessEnd
  gapEnd s := (State.sameRecords_of_bus s.gapEnd_eq).keeps
  retryWaitEnd s := (State.sameRecords_of_bus s.retryWaitEnd_eq).keeps
  backoffEnd s t := (s.sameRecords_backoffEnd t).keeps
  deadlinePasses s t := (s.sameRecords_deadlinePasses t).keeps
  takesEffect := State.keepsRingAndPollLaws_takesEffect
  setLreq _ _ := ⟨id, id⟩
  lreqAsserted s := (State.sameRecords_of_bus s.lreqAsserted_eq).keeps
  lreqWithdrawn s := (State.sameRecords_of_bus s.lreqWithdrawn_eq).keeps
  lendTaken s := (State.sameRecords_of_bus s.lendTaken_eq).keeps
  reclaimEnd s := (State.sameRecords_of_bus s.reclaimEnd_eq).keeps
  pollTick _ := ⟨id, fun h => h.pollTick⟩
  intervalEnd _ := ⟨fun h => h.intervalEnd, id⟩
  resendExpiry _ := ⟨id, id⟩
  frameEnd s := s.sameRecords_frameEnd.keeps
  boot s cause rate := s.keepsRingAndPollLaws_of_reset (s.sameRecords_boot cause rate)
  initialised s _ _ := s.keepsRingAndPollLaws_of_reset ⟨rfl, rfl, rfl, rfl, rfl⟩
  setPending _ _ := ⟨id, id⟩
  elapse _ := ⟨id, id⟩

/-- Settles O58: every effect keeps both laws, and so does every step. -/
theorem stepKeepsRingAndPollLaws : Obligations.StepKeepsRingAndPollLaws :=
  ⟨fun _ _ hlaw hstep => (effectsWithin_keepsRingAndPollLaws.step hstep).1 hlaw,
    fun _ _ hlaw hstep => (effectsWithin_keepsRingAndPollLaws.step hstep).2 hlaw⟩

end Sys2Proof.Machine
end

section
/-! PROOFS. The watch list at a poll tick and at a WATCH_SET (R98, R99, R102, R103, R170). -/

namespace Sys2Proof.Machine

/-! ## POLL_TICK (R103) -/

theorem WatchId.all_eq_finRange : WatchId.all = List.finRange 32 := by decide

theorem WatchEntry.fallsDue_eq (x : WatchEntry) : x.fallsDue = decide (x.countdown ≤ 1) :=
  decide_eq_decide.mpr (by omega)

/-- Settles O27: the entries are counted down one by one, and those that fall due with none outstanding join the
poll queue. -/
theorem pollTickCountsDown : Obligations.PollTickCountsDown := by
  intro s h
  refine ⟨_, exec_pollTick h, ?_, ?_, fun id => ?_⟩
  · rw [State.transmit_offWire]
    apply State.offWire_ext <;> simp [Config.perMilli]
  · rw [State.transmit_pollQueue, State.pollTick_pollQueue, State.transmit_pollQueue, State.newPolls,
      WatchId.all_eq_finRange]
    congr 1
    refine List.filter_congr fun id _ => ?_
    rw [State.transmit_watchOf]
    cases s.watchOf id with
    | none => rfl
    | some x => exact congrArg (· && !x.outstanding) x.fallsDue_eq
  · rw [State.transmit_watchOf, State.pollTick_watchOf, State.transmit_watchOf]
    congr 1
    funext x
    rw [WatchEntry.tick, x.fallsDue_eq]
    simp only [decide_eq_true_eq]
    rfl

/-! ## The body of a WATCH_SET (R98, R170) -/

theorem UnitSize.ofCode?_eq_some {n : Nat} {u : UnitSize} : UnitSize.ofCode? n = some u ↔ u.bytes = n := by
  constructor
  · intro h
    unfold UnitSize.ofCode? at h
    split at h <;> cases h <;> rfl
  · rintro rfl
    exact u.ofCode?_bytes

theorem WatchMode.ofCode?_eq_some {n : Nat} {m : WatchMode} : WatchMode.ofCode? n = some m ↔ m.code = n := by
  constructor
  · intro h
    unfold WatchMode.ofCode? at h
    split at h <;> cases h <;> rfl
  · rintro rfl
    cases m <;> rfl

theorem WatchMode.code_le (m : WatchMode) : m.code ≤ 2 := by cases m <;> decide

theorem WatchMode.exists_code {n : Nat} (h : n ≤ 2) : ∃ m : WatchMode, m.code = n := by
  match n, h with
  | 0, _ => exact ⟨.matches, rfl⟩
  | 1, _ => exact ⟨.differ, rfl⟩
  | 2, _ => exact ⟨.track, rfl⟩

theorem UnitSize.unitCode_bytes (u : UnitSize) : unitCode u.bytes := by cases u <;> simp [unitCode, UnitSize.bytes]

/-- The configuration that the bytes of a WATCH_SET body spell (R170). -/
def watchConfigAt (body : List Byte) (unit : UnitSize) (mode : WatchMode) : WatchConfig :=
  { address := fieldAt body 1 3, unit := unit, mode := mode, mask := BitVec.ofNat 32 (fieldAt body 6 4),
    reference := BitVec.ofNat 32 (fieldAt body 10 4), period := fieldAt body 14 1, setCount := fieldAt body 15 1,
    clearCount := fieldAt body 16 1, notifyRaise := fieldAt body 17 1 % 2 = 1,
    notifyClear := fieldAt body 17 1 / 2 % 2 = 1, notifyChange := fieldAt body 17 1 / 4 % 2 = 1 }

/-- The rest of check 1 of R98 once the id, the unit size and the mode are listed ones. -/
def watchValuesOk (tagOk : Bool) (body : List Byte) (unit : UnitSize) : Bool :=
  tagOk && decide (fieldAt body 1 3 < Config.addressSpace) && decide (fieldAt body 6 4 < 2 ^ (8 * unit.bytes)) &&
    decide (fieldAt body 10 4 < 2 ^ (8 * unit.bytes)) && decide (1 ≤ fieldAt body 14 1) &&
    decide (1 ≤ fieldAt body 15 1) && decide (fieldAt body 15 1 ≤ 15) && decide (1 ≤ fieldAt body 16 1) &&
    decide (fieldAt body 16 1 ≤ 15) && decide (fieldAt body 17 1 < 8)

/-- The reader of WATCH_SET once its coded fields are known. -/
theorem readWatchSet_of_codes {tagOk : Bool} {body : List Byte} {id : WatchId} {unit : UnitSize} {mode : WatchMode}
    (hlength : body.length = 18) (hid : watchId? (fieldAt body 0 1) = some id)
    (hunit : UnitSize.ofCode? (fieldAt body 4 1) = some unit)
    (hmode : WatchMode.ofCode? (fieldAt body 5 1) = some mode) :
    readWatchSet tagOk body = checked (watchValuesOk tagOk body unit) (id, watchConfigAt body unit mode) := by
  rw [readWatchSet, ofLength, if_pos hlength, hid, hunit, hmode]
  rfl

/-- With listed codes, the values pass exactly when every field is in its range. -/
theorem watchValuesOk_iff {tagOk : Bool} {body : List Byte} {unit : UnitSize} {mode : WatchMode}
    (hid : fieldAt body 0 1 < 32) (hunit : unit.bytes = fieldAt body 4 1) (hmode : mode.code = fieldAt body 5 1) :
    watchValuesOk tagOk body unit = true ↔ watchSetInRange tagOk body := by
  have hcode := hunit ▸ unit.unitCode_bytes
  have hmodeLe := hmode ▸ mode.code_le
  simp only [watchValuesOk, watchSetInRange, Bool.and_eq_true, decide_eq_true_eq, hunit, hcode, hmodeLe, true_and,
    and_assoc, Nat.lt_succ_iff.mp hid, Nat.lt_succ_iff (n := 7)]
  rfl

/-- A body of 18 bytes with a field out of its range is BAD_FIELD (R98, R170). -/
theorem readWatchSet_of_not_inRange {tagOk : Bool} {body : List Byte} (hlength : body.length = 18)
    (h : ¬ watchSetInRange tagOk body) : readWatchSet tagOk body = .error .badField := by
  cases hid : watchId? (fieldAt body 0 1) with
  | none => rw [readWatchSet, ofLength, if_pos hlength, hid]
  | some id =>
    cases hunit : UnitSize.ofCode? (fieldAt body 4 1) with
    | none => rw [readWatchSet, ofLength, if_pos hlength, hid, hunit]
    | some unit =>
      cases hmode : WatchMode.ofCode? (fieldAt body 5 1) with
      | none => rw [readWatchSet, ofLength, if_pos hlength, hid, hunit, hmode]
      | some mode =>
        have hlt : fieldAt body 0 1 < 32 := by
          by_contra hno
          rw [watchId?_of_le (by omega)] at hid
          cases hid
        rw [readWatchSet_of_codes hlength hid hunit hmode]
        exact if_neg fun hok => h ((watchValuesOk_iff hlt (UnitSize.ofCode?_eq_some.mp hunit)
          (WatchMode.ofCode?_eq_some.mp hmode)).mp hok)

/-- A body of 18 bytes whose fields are in range is read as they stand (R98, R170). -/
theorem readWatchSet_of_inRange {tagOk : Bool} {body : List Byte} (hlength : body.length = 18)
    (h : watchSetInRange tagOk body) :
    ∃ (id : WatchId) (unit : UnitSize) (mode : WatchMode),
      readWatchSet tagOk body = .ok (id, watchConfigAt body unit mode) ∧ id.val = fieldAt body 0 1 ∧
        unit.bytes = fieldAt body 4 1 ∧ mode.code = fieldAt body 5 1 := by
  obtain ⟨-, hid, -, hunit, hmode, -⟩ := id h
  have hlt : fieldAt body 0 1 < 32 := by omega
  obtain ⟨unit, hofUnit, hunit⟩ := UnitSize.ofCode?_of_unitCode hunit
  obtain ⟨mode, hmode⟩ := WatchMode.exists_code hmode
  refine ⟨⟨_, hlt⟩, unit, mode, ?_, rfl, hunit, hmode⟩
  rw [readWatchSet_of_codes hlength (watchId?_of_lt hlt) hofUnit (WatchMode.ofCode?_eq_some.mpr hmode),
    (watchValuesOk_iff hlt hunit hmode).mpr h]
  rfl

/-- A field of four bytes fits a unit value. -/
theorem ofNat_fieldAt_toNat (body : List Byte) (offset : Nat) :
    (BitVec.ofNat 32 (fieldAt body offset 4)).toNat = fieldAt body offset 4 := by
  rw [BitVec.toNat_ofNat]
  exact Nat.mod_eq_of_lt (fieldAt_lt body offset 4)

/-! ## Checks 2 to 5 (R98) -/

section
variable {s : State} {id : WatchId} {c : WatchConfig}

theorem State.checkWatch_of_inUse (h : s.watchOf id ≠ none) : s.checkWatch id c = some .slotInUse :=
  if_pos (Option.isSome_iff_ne_none.mpr h)

theorem State.checkWatch_of_unmapped (h : s.watchOf id = none) (hdecode : s.decode c.address = none) :
    s.checkWatch id c = some .unmapped := by
  simp [State.checkWatch, h, hdecode]

/-- On an UNUSED id and a decoded address the rights are checked, then the alignment. -/
theorem State.checkWatch_of_mapped {w : WinId} (h : s.watchOf id = none) (hdecode : s.decode c.address = some w) :
    s.checkWatch id c =
      if (s.window w).fields.rights.permitsRead = false then some .accessDenied
      else if c.address % c.unit.bytes ≠ 0 then some .misaligned else none := by
  simp [State.checkWatch, h, hdecode]

/-- The checks look at the windows and the watch list only. -/
theorem State.checkWatch_congr {t : State} (hwindows : t.windows = s.windows) (hwatch : t.watch = s.watch) :
    t.checkWatch id c = s.checkWatch id c := by
  unfold State.checkWatch
  rw [State.watchOf_congr hwatch, State.decode_congr hwindows]
  simp only [State.window_congr hwindows]

end

/-! ## WATCH_SET at the tracker (R98) -/

theorem State.take_watchSet (s : State) (tagByte : Byte) (body : List Byte) (prior : LinkState) :
    s.take Kind.watchSet.code tagByte body prior =
      s.tagged .watchSet tagByte fun t x =>
        x.newWatchSet t tagByte (readWatchSet (plainTagByte tagByte) body) := by
  rw [State.take, Kind.ofByte?_code]
  rfl

/-- The entry a WATCH_SET puts in use, by the state of R99 that its mode starts in. -/
theorem WatchEntry.fresh_eq (c : WatchConfig) :
    WatchEntry.fresh c =
      { config := c, countdown := 1, state := if c.mode = .track then .notSet else .quiet, stored := none,
        outstanding := false, pollsDone := 0, pollFaults := 0, pollDeferrals := 0, overruns := 0 } := by
  unfold WatchEntry.fresh
  cases c.mode <;> rfl

/-- Off the wire, with the tag written, an entry is put in use as after the DEAF exit. -/
theorem State.judging_setWatch_offWire {s x : State} {tag : Tag} (h : s.judging x tag) (id : WatchId)
    (y : Option WatchEntry) (e : TagEntry) :
    ((x.setWatch id y).setTag tag e).offWire = ((s.hear.setWatch id y).setTag tag e).offWire := by
  rcases h with rfl | rfl <;> apply State.offWire_ext <;> simp

section
variable {s : State} {tagByte : Byte} {tag : Tag} {body : List Byte} {id : WatchId} {c : WatchConfig}
  (h : s.phase = .running) (hnew : s.isNew tagByte tag)
  (hread : readWatchSet (plainTagByte tagByte) body = .ok (id, c))
include h hnew hread

/-- A WATCH_SET that passes its checks puts its entry in use and is answered OK (R98). -/
theorem exec_watchSet_passes (hcheck : s.checkWatch id c = none) :
    ∃ t, exec (.watchSet tagByte body) s = .next t ∧
      t.offWire = ((s.hear.setWatch id (some (.fresh c))).setTag tag
        (.done (phaseOf tagByte) (plainReply .watchSet tagByte .ok))).offWire ∧
      t.hasStored tag (phaseOf tagByte) (plainReply .watchSet tagByte .ok) := by
  obtain ⟨x, hexec, hx⟩ := exec_new h hnew (State.take_watchSet s.transmit.hear tagByte body _)
  obtain ⟨hwindows, -, -, -, hwatch, -⟩ := State.judging_fields hx
  have hset : x.newWatchSet tag tagByte (readWatchSet (plainTagByte tagByte) body) =
      (x.setWatch id (some (.fresh c))).executed .watchSet tag tagByte [] := by
    rw [hread]
    simp only [State.newWatchSet, State.checkWatch_congr hwindows hwatch, hcheck]
  rw [hset] at hexec
  refine ⟨_, hexec, ?_, State.store_transmit_hasStored ..⟩
  rw [State.transmit_offWire, State.executed, State.store_offWire]
  exact State.judging_setWatch_offWire hx id _ _

/-- One that fails a check is refused with its status (R98, R147). -/
theorem exec_watchSet_fails {status : Status} (hcheck : s.checkWatch id c = some status) :
    ∃ t, exec (.watchSet tagByte body) s = .next t ∧
      s.refusedWith t tag tagByte (plainReply .watchSet tagByte status) := by
  obtain ⟨x, hexec, hx⟩ := exec_new h hnew (State.take_watchSet s.transmit.hear tagByte body _)
  obtain ⟨hwindows, -, -, -, hwatch, -⟩ := State.judging_fields hx
  have hrefused : x.newWatchSet tag tagByte (readWatchSet (plainTagByte tagByte) body) =
      x.refuse .watchSet tag tagByte status := by
    rw [hread]
    simp only [State.newWatchSet, State.checkWatch_congr hwindows hwatch, hcheck]
  rw [hrefused] at hexec
  exact ⟨_, hexec, State.refuse_given hx .watchSet tagByte status⟩

end

/-- Settles O25: the entry is put in use, or the request refused by its first failing check. -/
theorem watchSetStartsOrIsRefused : Obligations.WatchSetStartsOrIsRefused := by
  refine ⟨fun s tagByte tag body id c w h hnew hread hunused hdecode hreads haligned => ?_,
    fun s tagByte tag body status h hnew hfails => ?_,
    fun tagOk body => ⟨fun hlength => if_neg hlength, readWatchSet_of_not_inRange, fun hlength hin => ?_⟩⟩
  · rw [← WatchEntry.fresh_eq]
    refine exec_watchSet_passes h hnew hread ?_
    rw [State.checkWatch_of_mapped hunused hdecode]
    simp [hreads, haligned]
  · rcases hfails with hread | ⟨id, c, hread, hcheck⟩
    · exact exec_new_refused h rfl hnew (State.take_watchSet ..) fun x => by
        rw [show readWatchSet (plainTagByte tagByte) body = .error status from hread]
        rfl
    · refine exec_watchSet_fails h hnew hread ?_
      rcases hcheck with ⟨hused, rfl⟩ | ⟨hunused, hdecode, rfl⟩ | ⟨hunused, w, hdecode, hrest⟩
      · exact State.checkWatch_of_inUse hused
      · exact State.checkWatch_of_unmapped hunused hdecode
      · rw [State.checkWatch_of_mapped hunused hdecode]
        rcases hrest with ⟨hdenied, rfl⟩ | ⟨hreads, hmisaligned, rfl⟩
        · exact if_pos hdenied
        · simp [hreads, hmisaligned]
  · obtain ⟨id, unit, mode, hread, hid, hunit, hmode⟩ := readWatchSet_of_inRange hlength hin
    exact ⟨id, _, hread, hid, rfl, hunit, hmode, ofNat_fieldAt_toNat body 6, ofNat_fieldAt_toNat body 10, rfl, rfl,
      rfl, decide_eq_true_iff, decide_eq_true_iff, decide_eq_true_iff⟩

end Sys2Proof.Machine
end

section
/-! PROOFS. The interval statistics: what the reads answer (R126, R128), what COUNTERS_CLEAR keeps (R127), and the
interval end (R119 to R123). -/

namespace Sys2Proof.Machine

/-! ## The interval end (R119 to R123) -/

theorem WinId.all_eq_finRange : WinId.all = List.finRange 8 := by decide

/-- Entering notices looks at nothing that a choice of the transmitter changes. -/
theorem State.enterNotices_offWire_congr {s t : State} (h : t.offWire = s.offWire) (contents : List NoticeContent) :
    (t.enterNotices contents).offWire = (s.enterNotices contents).offWire := by
  have hnotices := State.enterNotices_offWire (congrArg State.notices h) contents
  calc (t.enterNotices contents).offWire
      = { t.offWire with notices := (t.enterNotices contents).offWire.notices } := rfl
    _ = { s.offWire with notices := (s.enterNotices contents).offWire.notices } := by rw [h, hnotices]

theorem State.chooseAfterEntry_intervalNumber (b s : State) :
    (b.chooseAfterEntry s).intervalNumber = s.intervalNumber :=
  State.chooseAfterEntry_keep (by simp) rfl

/-- The statistics after an interval end are each window's own (R120 to R123). -/
theorem State.intervalEnd_statsOf (s : State) (w : WinId) :
    s.intervalEnd.statsOf w = s.closeInterval (nextInterval s.intervalNumber) w := by
  simp [State.statsOf, State.intervalEnd]

/-- What a window closes depends on its fields and its statistics alone (R120). -/
theorem State.closing_congr {s t : State} {w : WinId} (hwindow : t.window w = s.window w)
    (hstats : t.statsOf w = s.statsOf w) (number : Nat) : t.closing w number = s.closing w number := by
  simp only [State.closing, hwindow, hstats]

theorem State.closeInterval_congr {s t : State} {w : WinId} (hwindow : t.window w = s.window w)
    (hstats : t.statsOf w = s.statsOf w) (number : Nat) : t.closeInterval number w = s.closeInterval number w := by
  simp only [State.closeInterval, State.closing_congr hwindow hstats, hwindow, hstats]

theorem State.severeNotice_congr {s t : State} {w : WinId} (hwindow : t.window w = s.window w)
    (hstats : t.statsOf w = s.statsOf w) (number : Nat) : t.severeNotice number w = s.severeNotice number w := by
  simp only [State.severeNotice, State.closing_congr hwindow hstats, hwindow]

theorem State.closeInterval_of_closed {s : State} {w : WinId} (h : (s.window w).isOpen = false) (number : Nat) :
    s.closeInterval number w = s.statsOf w := by
  simp [State.closeInterval, h]

theorem State.closeInterval_of_open {s : State} {w : WinId} (h : (s.window w).isOpen = true) (number : Nat) :
    s.closeInterval number w =
      { counters := (s.statsOf w).counters.countRecord (s.closing w number), tallies := .zero,
        failedSeen := decide ((s.window w).health.state = .failed),
        ring := pushRecord (s.statsOf w).ring (s.closing w number) } :=
  if_pos h

/-- A record joins what is left of the ring once a full one has lost its oldest (R121). -/
theorem pushRecord_eq (ring : List Record) (r : Record) :
    pushRecord ring r = (if ring.length < 8 then ring else ring.tail) ++ [r] :=
  (apply_ite (· ++ [r]) ..).symm

/-- The notice of a window's record, its severity written out as a count of failures (R120, R122). -/
theorem State.severeNotice_eq (s : State) (number : Nat) (w : WinId) :
    s.severeNotice number w =
      let failures := (s.statsOf w).tallies.faults + (s.statsOf w).tallies.exhausts
      if (s.window w).isOpen && (s.window w).fields.notifySevere &&
          decide ((s.window w).fields.severeThreshold ≤ failures) then
        [{ kind := .intervalSevere, subject := w.val, data := be4 number ++ be4 failures }]
      else [] := by
  rw [State.severeNotice, Bool.and_right_comm]
  rfl

/-- Off the wire an interval end writes the number, the statistics and the timer, and enters the severe notices,
whether the transmitter has made its choice before or not (R119 to R123). -/
theorem State.transmit_intervalEnd_offWire (s : State) :
    s.transmit.intervalEnd.offWire =
      ({ s with intervalNumber := nextInterval s.intervalNumber, stats := s.transmit.intervalEnd.stats,
                intervalTimer := s.timing.interval * Config.perSecond }.enterNotices
        ((List.finRange 8).flatMap (s.severeNotice (nextInterval s.intervalNumber)))).offWire := by
  have hcontents : WinId.all.flatMap (s.transmit.severeNotice (nextInterval s.transmit.intervalNumber)) =
      (List.finRange 8).flatMap (s.severeNotice (nextInterval s.intervalNumber)) := by
    rw [WinId.all_eq_finRange, State.transmit_intervalNumber]
    exact congrArg (List.flatMap · _) (funext fun w => State.severeNotice_congr (by simp) (by simp) _)
  rw [← hcontents]
  refine State.enterNotices_offWire_congr ?_ _
  apply State.offWire_ext <;> simp [State.intervalEnd]

/-- Settles O29: each window's statistics and notice are its own, and the choices of the transmitter around the event
change none of them. -/
theorem intervalEndClosesRecords : Obligations.IntervalEndClosesRecords := by
  intro s h
  have hnumber : (s.transmit.chooseAfterEntry s.transmit.intervalEnd).intervalNumber =
      nextInterval s.intervalNumber := by
    rw [State.chooseAfterEntry_intervalNumber, ← s.transmit_intervalNumber]
    rfl
  have hstats (w : WinId) : (s.transmit.chooseAfterEntry s.transmit.intervalEnd).statsOf w =
      s.closeInterval (nextInterval s.intervalNumber) w := by
    rw [State.chooseAfterEntry_statsOf, State.intervalEnd_statsOf, State.transmit_intervalNumber]
    exact State.closeInterval_congr (by simp) (by simp) _
  refine ⟨_, exec_intervalEnd h, hnumber, fun w hclosed => ?_, fun w hopen => ?_, ?_⟩
  · rw [hstats, State.closeInterval_of_closed hclosed]
  · rw [hstats, hnumber, State.closeInterval_of_open hopen, pushRecord_eq]
    rfl
  · simp only [hnumber, State.chooseAfterEntry_offWire, State.chooseAfterEntry_stats, ← State.severeNotice_eq]
    exact s.transmit_intervalEnd_offWire

/-! ## COUNTERS_READ and HISTORY_READ (R126, R128) -/

theorem State.take_countersRead {tagByte : Byte} (hspare : spareClear tagByte = true) (s : State) (w : WinId)
    (prior : LinkState) :
    s.take Kind.countersRead.code tagByte (be1 w.val) prior =
      if (s.window w).isOpen then s.answer Kind.countersRead.code tagByte .ok (s.counterBytes w)
      else s.answer Kind.countersRead.code tagByte .windowClosed [] := by
  rw [State.take, Kind.ofByte?_code]
  simp only [takeCountersRead, hspare, readWindow_be1]

/-- The contents of a COUNTERS_READ reply, part by part (R126, R171). -/
theorem State.counterBytes_eq (s : State) (w : WinId) :
    s.counterBytes w =
      be1 w.val ++ be4 s.intervalNumber ++ be1 (s.window w).health.state.code ++
        be1 (s.window w).health.failureRun ++ be1 (s.window w).health.successRun ++
        (s.statsOf w).counters.toBytes ++ (s.statsOf w).tallies.toBytes ++
        be1 (if (s.statsOf w).failedSeen then 1 else 0) ++ be1 (s.statsOf w).ring.length := by
  simp only [State.counterBytes, Health.toBytes, List.append_assoc]
  rfl

theorem State.counterBytes_congr {s t : State} {w : WinId} (hwindow : t.window w = s.window w)
    (hstats : t.statsOf w = s.statsOf w) (hnumber : t.intervalNumber = s.intervalNumber) :
    t.counterBytes w = s.counterBytes w := by
  simp only [State.counterBytes, hwindow, hstats, hnumber]

/-- A body of a window number and a record count is read as these (R128, R170). -/
theorem readHistory_be1 (w : WinId) {n : Nat} (hmin : 1 ≤ n) (hmax : n ≤ 8) :
    readHistory true (be1 w.val ++ be1 n) = .ok (w, n) := by
  have hcount : fieldAt (be1 w.val ++ be1 n) 1 1 = n :=
    (fieldAt_be1 n).trans (Nat.mod_eq_of_lt (by omega))
  have hw : winId? (fieldAt (be1 w.val ++ be1 n) 0 1) = some w := by
    rw [show fieldAt (be1 w.val ++ be1 n) 0 1 = w.val from (fieldAt_be1 w.val).trans (Nat.mod_eq_of_lt (by omega))]
    exact winId?_of_lt w.isLt
  rw [readHistory, hw, hcount]
  simp [ofLength, checked, be1, hmin, hmax]

theorem State.take_historyRead {tagByte : Byte} (hspare : spareClear tagByte = true) (s : State) (w : WinId) {n : Nat}
    (hmin : 1 ≤ n) (hmax : n ≤ 8) (prior : LinkState) :
    s.take Kind.historyRead.code tagByte (be1 w.val ++ be1 n) prior =
      if (s.window w).isOpen then
        s.answer Kind.historyRead.code tagByte .ok
          (be1 ((s.statsOf w).newest n).length ++ (((s.statsOf w).newest n).map Record.toBytes).flatten)
      else s.answer Kind.historyRead.code tagByte .windowClosed [] := by
  rw [State.take, Kind.ofByte?_code]
  simp only [takeHistoryRead, hspare, readHistory_be1 w hmin hmax]

theorem WindowStats.newest_length (x : WindowStats) (n : Nat) : (x.newest n).length = min n x.ring.length := by
  simp [WindowStats.newest]

/-- A read of a window is answered with its contents while the window is OPEN, and else WINDOW_CLOSED (R126, R128). -/
theorem exec_answers_ofWindow {s : State} (h : s.phase = .running) {k : Kind} {tagByte : Byte} {body : List Byte}
    {w : WinId} {contents : List Byte}
    (htake : s.transmit.hear.take k.code tagByte body s.transmit.notices.link =
      if (s.window w).isOpen then s.transmit.hear.answer k.code tagByte .ok contents
      else s.transmit.hear.answer k.code tagByte .windowClosed []) :
    ∃ t, exec (k.command tagByte body) s = .next t ∧ t.offWire = s.hear.offWire ∧
      ((s.window w).isOpen = false → s.answered t (plainReply k tagByte .windowClosed)) ∧
      ((s.window w).isOpen = true →
        s.answered t { kind := replyKind k.code, tagByte := tagByte, body := Status.ok.code :: contents }) := by
  cases hopen : (s.window w).isOpen with
  | false =>
    rw [hopen, if_neg Bool.false_ne_true] at htake
    obtain ⟨t, hexec, hoff, hanswered⟩ := exec_answers h htake
    exact ⟨t, hexec, hoff, fun _ => hanswered, nofun⟩
  | true =>
    rw [hopen, if_pos rfl] at htake
    obtain ⟨t, hexec, hoff, hanswered⟩ := exec_answers h htake
    exact ⟨t, hexec, hoff, nofun, fun _ => hanswered⟩

/-- Settles O24: each read is answered by whether its window is OPEN, from the statistics as they stand. -/
theorem statisticsReadsAnswer : Obligations.StatisticsReadsAnswer := by
  refine ⟨fun s tagByte w h hspare => ?_, fun s tagByte w n h hspare hmin hmax => ?_⟩
  all_goals
    have hwindow : s.transmit.hear.window w = s.window w := State.window_congr (by simp) w
    have hstats : s.transmit.hear.statsOf w = s.statsOf w := State.statsOf_congr (by simp) w
  · refine exec_answers_ofWindow h (k := .countersRead) ?_
    rw [State.take_countersRead hspare, hwindow, State.counterBytes_congr hwindow hstats (by simp),
      State.counterBytes_eq]
  · refine exec_answers_ofWindow h (k := .historyRead) ?_
    rw [State.take_historyRead hspare _ _ hmin hmax, hwindow, hstats, WindowStats.newest_length]
    rfl

/-! ## COUNTERS_CLEAR (R127) -/

theorem readWindow_singleton {n : Byte} {w : WinId} (h : n.toNat = w.val) : readWindow true [n] = .ok w := by
  have hn : [n] = be1 w.val := by rw [← h, be1, BitVec.ofNat_toNat, BitVec.setWidth_eq]
  rw [hn, readWindow_be1]

theorem readWindow_badWindow {n : Byte} (h : 7 < n.toNat) (tagOk : Bool) :
    readWindow tagOk [n] = .error .badField := by
  rw [readWindow, fieldAt_singleton, winId?_of_le (by omega)]
  rfl

/-- Off the wire, with the tag written, statistics are written as after the DEAF exit. -/
theorem State.judging_setStats_offWire {s x : State} {tag : Tag} (h : s.judging x tag) (w : WinId) (y : WindowStats)
    (e : TagEntry) : ((x.setStats w y).setTag tag e).offWire = ((s.hear.setStats w y).setTag tag e).offWire := by
  rcases h with rfl | rfl <;> apply State.offWire_ext <;> simp

section
variable {s : State} {tagByte : Byte} {tag : Tag} {body : List Byte} {w : WinId}
  (h : s.phase = .running) (hnew : s.isNew tagByte tag) (hread : readWindow (plainTagByte tagByte) body = .ok w)
include h hnew hread

/-- COUNTERS_CLEAR of an OPEN window clears its running counters and is answered OK (R127). -/
theorem exec_countersClear_of_open (hopen : (s.window w).isOpen = true) :
    ∃ t, exec (.countersClear tagByte body) s = .next t ∧
      t.offWire = ((s.hear.setStats w { s.statsOf w with counters := .zero }).setTag tag
        (.done (phaseOf tagByte) (plainReply .countersClear tagByte .ok))).offWire ∧
      t.hasStored tag (phaseOf tagByte) (plainReply .countersClear tagByte .ok) := by
  obtain ⟨x, hexec, hx⟩ := exec_new h hnew (State.take_countersClear s.transmit.hear tagByte body _)
  obtain ⟨hwindows, -, -, -, -, hstats, -⟩ := State.judging_fields hx
  have hcleared : x.newCountersClear tag tagByte (readWindow (plainTagByte tagByte) body) =
      (x.setStats w { s.statsOf w with counters := .zero }).executed .countersClear tag tagByte [] := by
    rw [hread]
    simp only [State.newCountersClear, State.window_congr hwindows, State.statsOf_congr hstats, hopen, if_true]
  rw [hcleared] at hexec
  refine ⟨_, hexec, ?_, State.store_transmit_hasStored ..⟩
  rw [State.transmit_offWire, State.executed, State.store_offWire]
  exact State.judging_setStats_offWire hx w _ _

/-- COUNTERS_CLEAR of a CLOSED window is refused WINDOW_CLOSED (R127, R147). -/
theorem exec_countersClear_of_closed (hclosed : (s.window w).isOpen = false) :
    ∃ t, exec (.countersClear tagByte body) s = .next t ∧
      s.refusedWith t tag tagByte (plainReply .countersClear tagByte .windowClosed) := by
  obtain ⟨x, hexec, hx⟩ := exec_new h hnew (State.take_countersClear s.transmit.hear tagByte body _)
  obtain ⟨hwindows, -⟩ := State.judging_fields hx
  have hrefused : x.newCountersClear tag tagByte (readWindow (plainTagByte tagByte) body) =
      x.refuse .countersClear tag tagByte .windowClosed := by
    rw [hread]
    simp only [State.newCountersClear, State.window_congr hwindows, hclosed, Bool.false_eq_true, if_false]
  rw [hrefused] at hexec
  exact ⟨_, hexec, State.refuse_given hx .countersClear tagByte .windowClosed⟩

end

/-- Settles O28: the request is refused by its fields or by its CLOSED window, or clears the counters. -/
theorem countersClearKeepsTallies : Obligations.CountersClearKeepsTallies := by
  intro s tagByte tag n h hnew hspare
  have hread {w : WinId} (hn : n.toNat = w.val) (hforce : forceOf tagByte = false) :
      readWindow (plainTagByte tagByte) [n] = .ok w := by
    rw [plainTagByte_iff.mpr ⟨hspare, hforce⟩, readWindow_singleton hn]
  refine ⟨fun hbad => ?_, fun w hn hforce hopen => exec_countersClear_of_open h hnew (hread hn hforce) hopen,
    fun w hn hforce hclosed => exec_countersClear_of_closed h hnew (hread hn hforce) hclosed⟩
  refine exec_new_refused h rfl hnew (State.take_countersClear ..) fun x => ?_
  have hfails : readWindow (plainTagByte tagByte) [n] = .error .badField := by
    rcases hbad with hwindow | hforce
    · exact readWindow_badWindow hwindow _
    · rw [show plainTagByte tagByte = false by simp [plainTagByte, hforce]]
      exact readWindow_badTag rfl
  rw [hfails]
  rfl

end Sys2Proof.Machine
end

section
/-! PROOFS. The operations of the notice unit, one by one: what is due, and that each of them keeps the unit sound
(R130, R132 to R138). -/

namespace Sys2Proof.Machine

/-! ## The entry of a notice (R132, R133) -/

/-- Settles O36: by whether the queue has room. -/
theorem noticeEntryNumbers : Obligations.NoticeEntryNumbers := by
  refine fun s c => ⟨fun hroom => ?_, fun hfull => ?_⟩
  · exact if_pos hroom
  · exact if_neg (Nat.not_lt.mpr hfull)

/-! ## Consecutive numbers (R130, R132) -/

/-- The numbers run on in a part of the queue that has lost its oldest. -/
theorem numbersRun_of_cons {n : Notice} {queue : List Notice} {next : Nat} (h : numbersRun (n :: queue) next = true) :
    numbersRun queue next = true := by
  cases queue with
  | nil => rfl
  | cons m rest => exact ((Bool.and_eq_true_iff ..).mp h).2

/-- A notice with the next number goes on the run. -/
theorem numbersRun_append {queue : List Notice} {next : Nat} (h : numbersRun queue next = true) {n : Notice}
    (hn : n.number = next) : numbersRun (queue ++ [n]) (nextNoticeNumber next) = true := by
  induction queue with
  | nil => simp [numbersRun, hn]
  | cons m rest ih =>
    have hrest := ih (numbersRun_of_cons h)
    cases rest with
    | nil =>
      have hm : nextNoticeNumber m.number = next := of_decide_eq_true h
      exact (Bool.and_eq_true_iff ..).mpr ⟨decide_eq_true (hm.trans hn.symm), hrest⟩
    | cons m' rest => exact (Bool.and_eq_true_iff ..).mpr ⟨((Bool.and_eq_true_iff ..).mp h).1, hrest⟩

/-- Marks that change no number leave the run as it is. -/
theorem numbersRun_map {mark : Notice → Notice} (hmark : ∀ x, (mark x).number = x.number) (queue : List Notice)
    (next : Nat) : numbersRun (queue.map mark) next = numbersRun queue next := by
  induction queue with
  | nil => rfl
  | cons m rest ih =>
    cases rest with
    | nil => simp [numbersRun, hmark]
    | cons m' rest =>
      rw [List.map_cons] at ih
      simp only [List.map_cons, numbersRun, hmark, ih]

/-- An acknowledgement removes from the oldest end (R138). -/
theorem afterNumber_suffix (n : Nat) (queue : List Notice) : afterNumber n queue <:+ queue := by
  induction queue with
  | nil => exact List.suffix_refl _
  | cons x rest ih =>
    unfold afterNumber
    split
    · exact List.suffix_cons x rest
    · exact ih.trans (List.suffix_cons x rest)

theorem numbersRun_afterNumber {queue : List Notice} {next : Nat} (h : numbersRun queue next = true) (n : Nat) :
    numbersRun (afterNumber n queue) next = true := by
  induction queue with
  | nil => rfl
  | cons x rest ih =>
    unfold afterNumber
    split
    · exact numbersRun_of_cons h
    · exact ih (numbersRun_of_cons h)

theorem nextNoticeNumber_bounds (n : Nat) : 1 ≤ nextNoticeNumber n ∧ nextNoticeNumber n ≤ 65535 := by
  unfold nextNoticeNumber
  split <;> omega

/-! ## A sound notice unit -/

/-- The law of the notices, part by part (R130, R132, R135, R137). -/
structure NoticeUnit.Sound (u : NoticeUnit) : Prop where
  capacity : u.queue.length ≤ Config.noticeCapacity
  run : numbersRun u.queue u.next = true
  next_pos : 1 ≤ u.next
  next_le : u.next ≤ 65535
  lost_le : u.lost ≤ Config.max16
  timer : u.resendTimer.isSome = true → u.queue ≠ []
  due : u.resendDue = true → u.queue ≠ []
  deaf : u.link = .deaf → u.queue ≠ [] ∧ u.resendTimer = none ∧ u.resendDue = false

theorem State.noticeLaw_iff {s : State} : s.NoticeLaw ↔ s.notices.Sound :=
  ⟨fun ⟨hcapacity, hrun, hpos, hle, hlost, htimer, hdue, hdeaf⟩ =>
    ⟨hcapacity, hrun, hpos, hle, hlost, htimer, hdue, hdeaf⟩,
  fun ⟨hcapacity, hrun, hpos, hle, hlost, htimer, hdue, hdeaf⟩ =>
    ⟨hcapacity, hrun, hpos, hle, hlost, htimer, hdue, hdeaf⟩⟩

namespace NoticeUnit

theorem sound_empty : NoticeUnit.empty.Sound := by
  constructor <;> decide

variable {u : NoticeUnit}

/-- An entry takes the next number, or counts as lost (R133). -/
theorem Sound.enter (h : u.Sound) (c : NoticeContent) : (u.enter c).Sound := by
  obtain ⟨hpos, hle⟩ := nextNoticeNumber_bounds u.next
  unfold NoticeUnit.enter
  split
  · rename_i hroom
    refine ⟨?_, numbersRun_append h.run rfl, hpos, hle, Nat.zero_le _, fun _ => by simp, fun _ => by simp,
      fun hdeaf => ⟨by simp, (h.deaf hdeaf).2⟩⟩
    simpa using hroom
  · exact { h with lost_le := Nat.min_le_right .. }

theorem Sound.enterAll (h : u.Sound) (contents : List NoticeContent) : (contents.foldl NoticeUnit.enter u).Sound := by
  induction contents generalizing u with
  | nil => exact h
  | cons c rest ih => exact ih (h.enter c)

/-- A take marks the sent flag and no number (R134, R169). -/
theorem Sound.markTaken (h : u.Sound) (n : Notice) : (u.markTaken n).Sound := by
  have hnumber (x : Notice) : (if x.number = n.number then { x with sent := true } else x).number = x.number := by
    split <;> rfl
  refine ⟨?_, (numbersRun_map hnumber ..).trans h.run, h.next_pos, h.next_le, h.lost_le, fun htimer => ?_, nofun,
    fun hdeaf => ⟨?_, (h.deaf hdeaf).2.1, rfl⟩⟩
  · simpa [NoticeUnit.markTaken] using h.capacity
  · simpa [NoticeUnit.markTaken] using h.timer htimer
  · simpa [NoticeUnit.markTaken] using (h.deaf hdeaf).1

/-- A unit that leaves DEAF has a notice to send again (R137). -/
theorem Sound.deafExit (h : u.Sound) : u.deafExit.Sound := by
  unfold NoticeUnit.deafExit
  split
  · exact h
  · exact { h with due := fun _ => (h.deaf ‹_›).1, deaf := nofun }

/-- On a LIVE unit, which every arrival finds, an acknowledgement stops the timer with the last notice (R138). -/
theorem Sound.acknowledge (h : u.Sound) (hlive : u.link = .live) (n periods : Nat) (waits : Option Nat) :
    (u.acknowledge n periods waits).Sound := by
  refine ⟨(afterNumber_suffix n u.queue).length_le.trans h.capacity, numbersRun_afterNumber h.run n, h.next_pos,
    h.next_le, h.lost_le, fun htimer hempty => ?_, nofun, fun hdeaf => nomatch hlive.symm.trans hdeaf⟩
  have hqueue : afterNumber n u.queue = [] := hempty
  simp [NoticeUnit.acknowledge, hqueue] at htimer

/-- Only a running timer expires, and there is a notice then (R135). -/
theorem Sound.expire (h : u.Sound) (limit : Nat) : (u.expire limit).Sound := by
  unfold NoticeUnit.expire
  split
  · exact h
  · rename_i hrunning
    have hqueue := h.timer (by rw [hrunning]; rfl)
    split
    · exact { h with
        timer := nofun
        due := fun _ => hqueue
        deaf := fun hdeaf => nomatch hrunning.symm.trans (h.deaf hdeaf).2.1 }
    · exact { h with timer := nofun, due := nofun, deaf := fun _ => ⟨hqueue, rfl, rfl⟩ }

/-- The end of a frame starts the timer of the oldest notice, on a LIVE unit (R135). -/
theorem Sound.frameEnded (h : u.Sound) (number periods : Nat) : (u.frameEnded number periods).Sound := by
  unfold NoticeUnit.frameEnded
  split
  · rename_i hlive hqueue
    have hne : u.queue ≠ [] := by rw [hqueue]; exact List.cons_ne_nil _ _
    split
    · exact { h with timer := fun _ => hne, due := nofun, deaf := fun hdeaf => nomatch hlive.symm.trans hdeaf }
    · exact h
  · exact h

/-- RESTART makes the unit LIVE (R156). -/
theorem Sound.restarted (h : u.Sound) : ({ u with link := .live, resendCount := 0 } : NoticeUnit).Sound :=
  { h with deaf := nofun }

/-- A bus period counts the timer down (R135). -/
theorem Sound.elapse (h : u.Sound) : ({ u with resendTimer := u.resendTimer.map fun n => n - 1 } : NoticeUnit).Sound :=
  { h with
    timer := fun htimer => h.timer (by simpa using htimer)
    deaf := fun hdeaf => by
      obtain ⟨hqueue, htimer, hdue⟩ := h.deaf hdeaf
      exact ⟨hqueue, by rw [htimer]; rfl, hdue⟩ }

end NoticeUnit

end Sys2Proof.Machine
end

section
/-! PROOFS. What a command does to the notice unit and to the frame in transmission: requests at the tracker other than
NOTICE_ACK and RESTART, and most other events, leave both alone (R131, R135, R137, R138, R156). -/

namespace Sys2Proof.Machine

/-- From `s` to `t` the notice unit and the transmitter are left alone. -/
structure State.SameNotices (s t : State) : Prop where
  notices : t.notices = s.notices
  tx : t.tx = s.tx

theorem State.sameNotices_of_bus {s t : State} (h : t = { s with bus := t.bus }) : s.SameNotices t := by
  rw [h]
  exact ⟨rfl, rfl⟩

/-! ## Requests at the tracker (R144 to R153) -/

section
variable {kind : Kind} {tagByte : Byte}

theorem State.sameNotices_list (s : State) (t : Tag) : s.SameNotices (s.list t) := by
  rw [State.list_eq]
  exact ⟨rfl, rfl⟩

theorem State.sameNotices_store (s : State) (t : Tag) (phase : Bool) (r : Reply) :
    s.SameNotices (s.store t phase r) := ⟨by simp, by simp⟩

theorem State.SameNotices.executed {s x : State} (h : s.SameNotices x) (t : Tag) (contents : List Byte) :
    s.SameNotices (x.executed kind t tagByte contents) :=
  ⟨(State.store_notices ..).trans h.notices, (State.store_tx ..).trans h.tx⟩

/-- The tag table takes a frame without touching the notice unit, unless its meaning does (R145). -/
theorem State.sameNotices_tagged {new : Tag → State → State} (hnew : ∀ t x, State.SameNotices x (new t x))
    (s : State) : s.SameNotices (s.tagged kind tagByte new) := by
  unfold State.tagged
  split
  · exact ⟨rfl, rfl⟩
  · split
    · exact hnew _ s
    · split <;> exact ⟨rfl, rfl⟩
    · split
      · exact s.sameNotices_list _
      · obtain ⟨hnotices, htx⟩ := hnew _ (s.clearTag _)
        exact ⟨hnotices, htx⟩

theorem State.sameNotices_newBus (s : State) (t : Tag) (r : Except Status LinkRequest) :
    s.SameNotices (s.newBus kind t tagByte r) := by
  unfold State.newBus
  split
  · exact s.sameNotices_store ..
  · split
    · exact s.sameNotices_store ..
    · exact ⟨rfl, rfl⟩

theorem State.sameNotices_newWindowRequest (s : State) (t : Tag) (r : Except Status (WinId × LinkRequest)) :
    s.SameNotices (s.newWindowRequest kind t tagByte r) := by
  unfold State.newWindowRequest
  split
  · exact s.sameNotices_store ..
  · split
    · exact s.sameNotices_store ..
    · exact ⟨rfl, rfl⟩

theorem State.sameNotices_newWatchSet (s : State) (t : Tag) (r : Except Status (WatchId × WatchConfig)) :
    s.SameNotices (s.newWatchSet t tagByte r) := by
  unfold State.newWatchSet
  split
  · exact s.sameNotices_store ..
  · split
    · exact s.sameNotices_store ..
    · refine State.SameNotices.executed ?_ ..
      exact ⟨rfl, rfl⟩

theorem State.sameNotices_dropWatch (s : State) (id : WatchId) : s.SameNotices (s.dropWatch id) := by
  rw [State.dropWatch_eq]
  exact ⟨rfl, rfl⟩

theorem State.sameNotices_newWatchDrop (s : State) (t : Tag) (r : Except Status WatchId) :
    s.SameNotices (s.newWatchDrop t tagByte r) := by
  unfold State.newWatchDrop
  split
  · exact s.sameNotices_store ..
  · split
    · exact s.sameNotices_store ..
    · exact (s.sameNotices_dropWatch _).executed ..

theorem State.sameNotices_newCountersClear (s : State) (t : Tag) (r : Except Status WinId) :
    s.SameNotices (s.newCountersClear t tagByte r) := by
  unfold State.newCountersClear
  split
  · exact s.sameNotices_store ..
  · split
    · refine State.SameNotices.executed ?_ ..
      exact ⟨rfl, rfl⟩
    · exact s.sameNotices_store ..

theorem State.sameNotices_newTimingSet (s : State) (t : Tag) (r : Except Status Timing) :
    s.SameNotices (s.newTimingSet t tagByte r) := by
  unfold State.newTimingSet
  split
  · exact s.sameNotices_store ..
  · refine State.SameNotices.executed ?_ ..
    exact ⟨rfl, rfl⟩

theorem State.sameNotices_abortEntry (s : State) (e : LinkEntry) : s.SameNotices (s.abortEntry e) := by
  unfold State.abortEntry
  repeat' split
  all_goals constructor <;> simp

/-- The queries are answered from the tables, and so is ABORT but for its entry. -/
theorem State.sameNotices_takeImmediates (s : State) (body : List Byte) (prior : LinkState) :
    s.SameNotices (takeWindowQuery tagByte body s) ∧ s.SameNotices (takeWatchQuery tagByte body s) ∧
      s.SameNotices (takeCountersRead tagByte body s) ∧ s.SameNotices (takeHistoryRead tagByte body s) ∧
      s.SameNotices (takeStatus tagByte body prior s) ∧ s.SameNotices (takeIdentify tagByte body s) ∧
      s.SameNotices (takeAbort tagByte body s) := by
  unfold takeWindowQuery takeWatchQuery takeCountersRead takeHistoryRead takeStatus takeIdentify takeAbort
  refine ⟨?_, ?_, ?_, ?_, ?_, ?_, ?_⟩
  case refine_7 =>
    split
    · exact ⟨rfl, rfl⟩
    · split
      · exact ⟨rfl, rfl⟩
      · obtain ⟨hnotices, htx⟩ := s.sameNotices_abortEntry ‹_›
        exact ⟨hnotices, htx⟩
  all_goals
    repeat' split
    all_goals exact ⟨rfl, rfl⟩

/-- The two requests that act on the notice unit are NOTICE_ACK (R138) and RESTART (R156). -/
theorem State.take_sameNotices {k : Kind} (hack : k ≠ .noticeAck) (hrestart : k ≠ .restart) (s : State)
    (body : List Byte) (prior : LinkState) : s.SameNotices (s.take k.code tagByte body prior) := by
  obtain ⟨hwindow, hwatch, hcounters, hhistory, hstatus, hidentify, habort⟩ :=
    s.sameNotices_takeImmediates (tagByte := tagByte) body prior
  rw [State.take, Kind.ofByte?_code]
  cases k with
  | read => exact s.sameNotices_tagged fun _ x => x.sameNotices_newBus ..
  | write => exact s.sameNotices_tagged fun _ x => x.sameNotices_newBus ..
  | sequence => exact s.sameNotices_tagged fun _ x => x.sameNotices_newBus ..
  | windowSet => exact s.sameNotices_tagged fun _ x => x.sameNotices_newWindowRequest ..
  | windowClose => exact s.sameNotices_tagged fun _ x => x.sameNotices_newWindowRequest ..
  | windowQuery => exact hwindow
  | watchSet => exact s.sameNotices_tagged fun _ x => x.sameNotices_newWatchSet ..
  | watchDrop => exact s.sameNotices_tagged fun _ x => x.sameNotices_newWatchDrop ..
  | watchQuery => exact hwatch
  | countersRead => exact hcounters
  | countersClear => exact s.sameNotices_tagged fun _ x => x.sameNotices_newCountersClear ..
  | historyRead => exact hhistory
  | timingSet => exact s.sameNotices_tagged fun _ x => x.sameNotices_newTimingSet ..
  | status => exact hstatus
  | identify => exact hidentify
  | noticeAck => exact absurd rfl hack
  | abort => exact habort
  | restart => exact absurd rfl hrestart

end

/-- A frame of an unlisted KIND is answered and no more (R144). -/
theorem State.take_unlisted {kind : Byte} (h : Kind.ofByte? kind = none) (s : State) (tagByte : Byte)
    (body : List Byte) (prior : LinkState) :
    s.take kind tagByte body prior = s.answer kind tagByte .unknownKind [] := by
  rw [State.take, h]

/-- The resend count and the link state after a RESTART, if its body is none; the answer touches nothing (R156). -/
theorem takeRestart_notices (tagByte : Byte) (body : List Byte) (s : State) :
    ((takeRestart tagByte body s).notices = s.notices ∨
      (takeRestart tagByte body s).notices = { s.notices with link := .live, resendCount := 0 }) ∧
      (takeRestart tagByte body s).tx = s.tx := by
  unfold takeRestart
  split
  · exact ⟨.inl rfl, rfl⟩
  · exact ⟨.inr (by simp [State.restarted]), by simp [State.restarted]⟩

/-- An acknowledgement removes notices or nothing (R138). -/
theorem takeNoticeAck_notices (tagByte : Byte) (body : List Byte) (s : State) :
    (takeNoticeAck tagByte body s).notices = s.notices ∨
      ∃ n, (takeNoticeAck tagByte body s).notices = s.notices.acknowledge n s.resendTime s.timerAtFrameEnd := by
  unfold takeNoticeAck
  split
  · exact .inl rfl
  · split
    · exact .inr ⟨_, rfl⟩
    · exact .inl rfl

/-- A frame that is no NOTICE_ACK leaves the notice unit alone, or ends DEAF as RESTART does (R138, R144, R156). -/
theorem State.take_notices_of_not_ack {kind : Byte} (hack : kind ≠ Kind.noticeAck.code) (s : State) (tagByte : Byte)
    (body : List Byte) (prior : LinkState) :
    ((s.take kind tagByte body prior).notices = s.notices ∨
      (s.take kind tagByte body prior).notices = { s.notices with link := .live, resendCount := 0 }) ∧
      (s.take kind tagByte body prior).tx = s.tx := by
  cases hk : Kind.ofByte? kind with
  | none =>
    rw [State.take_unlisted hk]
    exact ⟨.inl rfl, rfl⟩
  | some k =>
    obtain rfl : k.code = kind := by simpa using List.find?_some hk
    by_cases hrestart : k = .restart
    · subst hrestart
      rw [State.take, Kind.ofByte?_code]
      exact takeRestart_notices tagByte body s
    · obtain ⟨hnotices, htx⟩ := State.take_sameNotices (tagByte := tagByte) (fun hk => hack (congrArg Kind.code hk))
        hrestart s body prior
      exact ⟨.inl hnotices, htx⟩

/-- What a frame at the tracker can do to the notice unit (R138, R144, R156). -/
theorem State.take_notices (s : State) (kind tagByte : Byte) (body : List Byte) (prior : LinkState) :
    (s.take kind tagByte body prior).notices = s.notices ∨
      (∃ n, (s.take kind tagByte body prior).notices = s.notices.acknowledge n s.resendTime s.timerAtFrameEnd) ∨
      (s.take kind tagByte body prior).notices = { s.notices with link := .live, resendCount := 0 } := by
  by_cases hack : kind = Kind.noticeAck.code
  · subst hack
    rw [State.take, Kind.ofByte?_code]
    exact (takeNoticeAck_notices tagByte body s).imp id .inl
  · exact (State.take_notices_of_not_ack hack s tagByte body prior).1.imp id .inr

/-! ## The other events -/

theorem State.sameNotices_grant (s : State) : s.SameNotices s.grant := by
  unfold State.grant State.grantLink State.grantPoll
  repeat' split
  all_goals constructor <;> simp

theorem State.sameNotices_backoffEnd (s : State) (t : Tag) : s.SameNotices (s.backoffEnd t) := by
  unfold State.backoffEnd
  repeat' split
  all_goals exact ⟨rfl, rfl⟩

theorem State.sameNotices_deadlinePasses (s : State) (t : Tag) : s.SameNotices (s.deadlinePasses t) := by
  unfold State.deadlinePasses
  repeat' split
  all_goals constructor <;> simp

theorem State.sameNotices_takesEffect (s : State) (w : WinId) : s.SameNotices (s.takesEffect w) := by
  unfold State.takesEffect State.applyWindowRequest
  repeat' split
  all_goals constructor <;> simp

end Sys2Proof.Machine
end

section
/-! PROOFS. Every command keeps the notice unit sound, and so does every step (R130, R132, R135, R137). An
acknowledgement keeps it so on a LIVE unit only, and every arrival makes the unit LIVE before the tracker takes its
frame (R137, R166): the walk over the commands takes an arrival as one effect, where `EffectsWithin` would ask for the
acknowledgement in every state. -/

namespace Sys2Proof.Machine

/-- The law of the notices goes over from `s` to `t`. -/
def State.KeepsNoticeLaw (s t : State) : Prop := s.notices.Sound → t.notices.Sound

theorem State.SameNotices.keeps {s t : State} (h : s.SameNotices t) : s.KeepsNoticeLaw t := fun hsound => by
  rwa [h.notices]

theorem State.keepsNoticeLaw_transmit (s : State) : s.KeepsNoticeLaw s.transmit := fun h =>
  s.transmit_cases (P := fun t => t.notices.Sound) h (fun _ _ _ _ => h) (fun _ _ _ _ => h)
    fun n _ _ _ => h.markTaken n

theorem State.enteredOnly.keepsNoticeLaw {s t : State} (h : s.enteredOnly t) : s.KeepsNoticeLaw t := by
  obtain ⟨-, -, -, -, contents, hnotices⟩ := h
  intro hsound
  rw [hnotices]
  exact hsound.enterAll contents

theorem State.keepsNoticeLaw_frameEnd (s : State) : s.KeepsNoticeLaw s.frameEnd := by
  intro h
  unfold State.frameEnd
  split
  · exact h
  · dsimp only
    split
    · exact h
    · exact h.frameEnded ..

/-! ## Arrivals (R166) -/

theorem State.keepsNoticeLaw_arrive (s : State) (kind tagByte : Byte) (body : List Byte) :
    s.KeepsNoticeLaw (s.arrive kind tagByte body) := by
  intro hsound
  have hheard : s.hear.notices.Sound := hsound.deafExit
  unfold State.arrive
  rcases s.hear.take_notices kind tagByte body s.notices.link with h | ⟨n, h⟩ | h
  · rw [h]
    exact hheard
  · rw [h]
    exact hheard.acknowledge s.notices.deafExit_link ..
  · rw [h]
    exact hheard.restarted

theorem State.keepsNoticeLaw_scan (fuel : Nat) (input : List Byte) (s : State) :
    s.KeepsNoticeLaw (s.scan fuel input) := by
  intro hsound
  induction fuel generalizing s input with
  | zero => exact hsound
  | succ fuel ih =>
    unfold State.scan
    split
    · exact hsound
    · exact hsound
    · split
      · exact ih _ s.countOversize hsound
      · split
        · exact hsound
        · dsimp only
          split
          · exact ih _ _ (State.keepsNoticeLaw_transmit _ (State.keepsNoticeLaw_arrive (s.holdBytes []) _ _ _ hsound))
          · exact ih _ s.countBadCrc hsound

theorem State.keepsNoticeLaw_byteArrival (s : State) (data : Byte) (stopHigh : Bool) :
    s.KeepsNoticeLaw (s.byteArrival data stopHigh) := by
  unfold State.byteArrival
  split
  · exact fun hsound => State.keepsNoticeLaw_scan _ _ { s with rx := _ } hsound
  · exact id
  · exact id

/-! ## Every command, every step -/

theorem State.keepsNoticeLaw_boot (s : State) (cause : ResetCause) (rate : BitVec 2) :
    s.KeepsNoticeLaw (s.boot cause rate) := by
  intro _
  rw [State.boot_eq]
  exact NoticeUnit.sound_empty.enter cause.notice

/-- The choices of the transmitter around an effect keep the law (R168). -/
theorem State.keepsNoticeLaw_event {f : State → State} (hf : ∀ x, State.KeepsNoticeLaw x (f x)) (s : State) :
    s.KeepsNoticeLaw (s.event f) := by
  unfold State.event
  split
  · exact id
  · exact fun h => State.keepsNoticeLaw_transmit _ (hf _ (s.keepsNoticeLaw_transmit h))

theorem State.keepsNoticeLaw_entryEvent {f : State → State} (hf : ∀ x, State.enteredOnly x (f x)) (s : State) :
    s.KeepsNoticeLaw (s.entryEvent f) := by
  unfold State.entryEvent
  split
  · exact id
  · intro h
    rw [State.chooseAfterEntry_notices]
    exact State.keepsNoticeLaw_transmit _ ((hf _).keepsNoticeLaw (s.keepsNoticeLaw_transmit h))

/-- Every command keeps the law. -/
theorem exec_keepsNoticeLaw {c : Instr} {s t : State} (hexec : exec c s = .next t) : s.KeepsNoticeLaw t := by
  have hevent : ∀ {f : State → State} (x : State), (∀ y : State, y.KeepsNoticeLaw (f y)) → s.KeepsNoticeLaw x →
      .next (x.event f) = (.next t : Host.Outcome State Fault Refusal) → s.KeepsNoticeLaw t := by
    rintro f x hf hx ⟨⟩
    exact fun h => x.keepsNoticeLaw_event hf (hx h)
  have hquiet : ∀ {f : State → State} (x : State), (∀ y : State, y.SameNotices (f y)) → s.KeepsNoticeLaw x →
      .next (x.event f) = (.next t : Host.Outcome State Fault Refusal) → s.KeepsNoticeLaw t :=
    fun x hf => hevent x fun y => (hf y).keeps
  have hentry : ∀ {f : State → State}, (∀ y : State, y.enteredOnly (f y)) → .next (s.entryEvent f) =
      (.next t : Host.Outcome State Fault Refusal) → s.KeepsNoticeLaw t := by
    rintro f hf ⟨⟩
    exact s.keepsNoticeLaw_entryEvent hf
  cases c with
  | powerOn rate =>
    simp only [exec, execPowerOn] at hexec
    split at hexec <;> cases hexec
    · exact fun h => State.keepsNoticeLaw_transmit _ (s.keepsNoticeLaw_boot .powerOn rate h)
    · exact fun _ => NoticeUnit.sound_empty
  | rstnAsserted =>
    simp only [exec, execRstnAsserted] at hexec
    split at hexec <;> cases hexec
    · exact fun _ => NoticeUnit.sound_empty
    · exact id
  | rstnWithdrawn rate =>
    simp only [exec, execRstnWithdrawn] at hexec
    split at hexec <;> cases hexec
    · exact s.keepsNoticeLaw_transmit
    · exact fun h => State.keepsNoticeLaw_transmit _ (s.keepsNoticeLaw_boot _ rate h)
  | receiverStart => exact hquiet s (fun x => by unfold State.receiverStart; split <;> exact ⟨rfl, rfl⟩) id hexec
  | byteArrival data stopHigh => exact hevent s (fun x => x.keepsNoticeLaw_byteArrival _ _) id hexec
  | gapTimerExpiry => exact hquiet s (fun x => by unfold State.gapExpiry; split <;> exact ⟨rfl, rfl⟩) id hexec
  | frameEnd => exact hevent s State.keepsNoticeLaw_frameEnd id hexec
  | rxdHighAfterBreak => exact hquiet s (fun x => by unfold State.highAfterBreak; split <;> exact ⟨rfl, rfl⟩) id hexec
  | grant => exact hquiet s State.sameNotices_grant id hexec
  | accessEnd ready deferred lines => exact hentry (fun x => x.accessEnd_enteredOnly ..) hexec
  | gapEnd => exact hquiet s (fun x => State.sameNotices_of_bus x.gapEnd_eq) id hexec
  | retryWaitEnd => exact hquiet s (fun x => State.sameNotices_of_bus x.retryWaitEnd_eq) id hexec
  | backoffEnd tag => exact hquiet s (fun x => x.sameNotices_backoffEnd tag) id hexec
  | deadline tag => exact hquiet s (fun x => x.sameNotices_deadlinePasses tag) id hexec
  | windowRequestTakesEffect w => exact hquiet s (fun x => x.sameNotices_takesEffect w) id hexec
  | lreqnAsserted =>
    exact hquiet { s with lreq := true } (fun x => State.sameNotices_of_bus x.lreqAsserted_eq) id hexec
  | lendTaken => exact hquiet s (fun x => State.sameNotices_of_bus x.lendTaken_eq) id hexec
  | lreqnWithdrawn =>
    exact hquiet { s with lreq := false } (fun x => State.sameNotices_of_bus x.lreqWithdrawn_eq) id hexec
  | reclaimEnd => exact hquiet s (fun x => State.sameNotices_of_bus x.reclaimEnd_eq) id hexec
  | pollTick => exact hquiet s (f := State.pollTick) (fun _ => ⟨rfl, rfl⟩) id hexec
  | intervalEnd => exact hentry State.intervalEnd_enteredOnly hexec
  | resendTimerExpiry => exact hevent s (fun x h => h.expire _) id hexec
  | _ => exact hevent s (fun x => x.keepsNoticeLaw_arrive _ _ _) id hexec

/-- Settles O57: every command keeps the notice unit sound, and so does a bus period that passes. -/
theorem stepKeepsNoticeLaw : Obligations.StepKeepsNoticeLaw := by
  intro s t hlaw hstep
  rw [State.noticeLaw_iff] at hlaw ⊢
  unfold step at hstep
  split at hstep
  · exact exec_keepsNoticeLaw hstep hlaw
  · split at hstep
    · exact exec_keepsNoticeLaw hstep hlaw
    · cases hstep
      exact s.keepsNoticeLaw_event (fun _ h => h.elapse) hlaw

end Sys2Proof.Machine
end

section
/-! PROOFS. What a FREE transmitter sends next and which notice is due (R134, R168), the end of a frame (R135, R169),
and the level of TXD (R158). -/

namespace Sys2Proof.Machine

/-! ## The due notice (R134) -/

namespace NoticeUnit

variable {u : NoticeUnit}

theorem due_of_deaf (h : u.link = .deaf) : u.due = none := by simp [NoticeUnit.due, h]

theorem due_of_empty (h : u.queue = []) : u.due = none := by
  unfold NoticeUnit.due
  split <;> simp [h]

theorem due_of_resend (hlive : u.link = .live) (hresend : u.resendDue = true) : u.due = u.queue.head? := by
  simp [NoticeUnit.due, hlive, hresend]

theorem due_of_no_resend (hlive : u.link = .live) (hresend : u.resendDue = false) :
    u.due = u.queue.find? fun n => !n.sent := by
  simp [NoticeUnit.due, hlive, hresend]

/-- Behind notices that are all sent, the first that is not is due. -/
theorem due_of_unsent (hlive : u.link = .live) (hresend : u.resendDue = false) {older younger : List Notice}
    {n : Notice} (hqueue : u.queue = older ++ n :: younger) (holder : ∀ x ∈ older, x.sent = true)
    (hn : n.sent = false) : u.due = some n := by
  have hnone : older.find? (fun x => !x.sent) = none :=
    List.find?_eq_none.mpr fun x hx => by simp [holder x hx]
  rw [due_of_no_resend hlive hresend, hqueue, List.find?_append, hnone]
  simp [hn]

theorem due_of_all_sent (hlive : u.link = .live) (hresend : u.resendDue = false)
    (hsent : ∀ x ∈ u.queue, x.sent = true) : u.due = none := by
  rw [due_of_no_resend hlive hresend]
  exact List.find?_eq_none.mpr fun x hx => by simp [hsent x hx]

end NoticeUnit

/-! ## The choice (R168) -/

section
variable {s : State} (hfree : s.tx.frame = none) (himmediate : s.tracker.immediate = [])
include hfree himmediate

theorem State.transmit_of_reply {r : Reply} (hreply : s.outgoingReply = some r)
    (hturn : s.notices.due = none ∨ s.tx.lastServed = .notice) : s.transmit = s.takeReply r := by
  cases hdue : s.notices.due with
  | none => simp [State.transmit, hfree, himmediate, hreply, hdue]
  | some n => simp [State.transmit, hfree, himmediate, hreply, hdue, hturn.resolve_left (by simp [hdue])]

theorem State.transmit_of_notice {n : Notice} (hdue : s.notices.due = some n)
    (hturn : s.outgoingReply = none ∨ s.tx.lastServed = .replyList) : s.transmit = s.takeNotice n := by
  cases hreply : s.outgoingReply with
  | none => simp [State.transmit, hfree, himmediate, hreply, hdue]
  | some r => simp [State.transmit, hfree, himmediate, hreply, hdue, hturn.resolve_left (by simp [hreply])]

end

/-- A take marks every notice with the number taken (R134, R169). -/
theorem NoticeUnit.sent_of_mem_markTaken {u : NoticeUnit} {n x : Notice} (hx : x ∈ (u.markTaken n).queue)
    (hnumber : x.number = n.number) : x.sent = true := by
  obtain ⟨y, -, rfl⟩ := List.mem_map.mp hx
  split at hnumber
  · rw [if_pos ‹_›]
  · exact absurd hnumber ‹_›

/-- Settles O11: each source in its turn, and the due notice by the state of the unit. -/
theorem transmitterChoice : Obligations.TransmitterChoice := by
  refine ⟨fun s hfree => ⟨fun r rest himmediate => ?_, fun r himmediate hreply hturn => ?_,
    fun n himmediate hdue hturn => ?_⟩, fun u => ⟨NoticeUnit.due_of_deaf, NoticeUnit.due_of_empty,
    fun oldest younger hlive hresend hqueue => ?_, fun older n younger hlive hresend hqueue =>
      NoticeUnit.due_of_unsent hlive hresend hqueue, NoticeUnit.due_of_all_sent⟩⟩
  · rw [State.transmit_of_immediate hfree himmediate]
    exact ⟨rfl, rfl, rfl⟩
  · rw [State.transmit_of_reply hfree himmediate hreply hturn]
    exact ⟨rfl, rfl, rfl, rfl⟩
  · rw [State.transmit_of_notice hfree himmediate hdue hturn]
    exact ⟨rfl, rfl, rfl, fun x hx => NoticeUnit.sent_of_mem_markTaken hx⟩
  · rw [NoticeUnit.due_of_resend hlive hresend, hqueue]
    rfl

/-! ## The end of a frame (R135, R169) -/

/-- A reset leaves nothing that waits for the transmitter. -/
theorem State.initialised_settled (s : State) (rate : BitVec 2) (phase : Phase) :
    ({ s.initialised rate with phase := phase } : State).settled := Or.inr ⟨rfl, rfl, rfl⟩

/-- After every command of a running state a FREE transmitter has made its choice (R168). -/
theorem exec_settled {s t : State} {c : Instr} (h : s.phase = .running) (hexec : exec c s = .next t) : t.settled := by
  have hevent : ∀ {f : State → State} (x : State), x.phase = .running →
      .next (x.event f) = (.next t : Host.Outcome State Fault Refusal) → t.settled := by
    rintro f x hx ⟨⟩
    exact State.event_settled hx f
  have hentry : ∀ {f : State → State}, .next (s.entryEvent f) =
      (.next t : Host.Outcome State Fault Refusal) → t.settled := by
    rintro f ⟨⟩
    exact State.entryEvent_settled h f
  cases c with
  | powerOn rate =>
    simp only [exec, execPowerOn, h] at hexec
    cases hexec
    exact State.transmit_settled _
  | rstnAsserted =>
    simp only [exec, execRstnAsserted, h] at hexec
    cases hexec
    exact s.initialised_settled ..
  | rstnWithdrawn rate =>
    simp only [exec, execRstnWithdrawn, h] at hexec
    cases hexec
    exact s.transmit_settled
  | lreqnAsserted => exact hevent { s with lreq := true } h hexec
  | lreqnWithdrawn => exact hevent { s with lreq := false } h hexec
  | accessEnd ready deferred lines => exact hentry hexec
  | intervalEnd => exact hentry hexec
  | _ => exact hevent s h hexec

/-- What the end of a frame does to the notice unit: it starts the timer of the oldest notice, if that is the one sent
and the unit is LIVE (R135). -/
def State.afterFrame (s : State) (f : TxFrame) : NoticeUnit :=
  if s.notices.link = .live ∧ f.notice.isSome = true ∧ f.notice = s.notices.queue.head?.map Notice.number then
    { s.notices with resendTimer := some (s.timing.resendInterval * 50000), resendDue := false }
  else s.notices

theorem State.frameEnd_of_frame {s : State} {f : TxFrame} (hframe : s.tx.frame = some f) :
    s.frameEnd =
      { s with tx := { frame := none, lastServed := s.tx.lastServed }, notices := s.afterFrame f } := by
  unfold State.frameEnd
  rw [hframe]
  dsimp only
  cases hnotice : f.notice with
  | none => simp [State.afterFrame, hnotice]
  | some number =>
    have hended : s.notices.frameEnded number s.resendTime = s.afterFrame f := by
      unfold NoticeUnit.frameEnded State.afterFrame
      cases hlink : s.notices.link with
      | deaf => simp
      | live =>
        cases hqueue : s.notices.queue with
        | nil => simp [hnotice]
        | cons oldest younger =>
          by_cases hnumber : oldest.number = number
          · simp [hnotice, hnumber, NoticeUnit.startTimer, State.resendTime, Config.perMilli]
          · simp [hnotice, hnumber, Ne.symm hnumber]
    dsimp only
    rw [hended]

theorem exec_frameEnd_of_frame {s : State} {f : TxFrame} (h : s.phase = .running) (hframe : s.tx.frame = some f) :
    exec .frameEnd s = .next
      ({ s with tx := { frame := none, lastServed := s.tx.lastServed },
                notices := s.afterFrame f } : State).transmit := by
  have hsending : s.transmit = s := State.transmit_of_sending (by rw [hframe]; rfl)
  rw [exec_frameEnd h, hsending, State.frameEnd_of_frame hframe]

/-! ## The level of TXD (R158) -/

theorem State.txd_of_free {s : State} (h : s.phase = .running) (hfree : s.tx.frame = none) : s.txd = true := by
  simp only [State.txd, h, hfree]

/-- While the remaining time lies in a bit-time that `bits` bit-times precede, that many bits have been sent. -/
theorem bitsSent_eq {total bits bit remaining : Nat} (hlt : bits < total)
    (hlow : (total - bits) * bit - bit < remaining) (hhigh : remaining ≤ (total - bits) * bit) :
    (total * bit - remaining) / bit = bits := by
  obtain ⟨rest, rfl⟩ := Nat.exists_eq_add_of_lt hlt
  have hrest : bits + rest + 1 - bits = rest + 1 := by omega
  rw [hrest, Nat.add_mul, Nat.one_mul, Nat.add_sub_cancel] at hlow
  rw [hrest, Nat.add_mul, Nat.one_mul] at hhigh
  have htotal : (bits + rest + 1) * bit = bits * bit + rest * bit + bit := by ring
  have hnext : (bits + 1) * bit = bits * bit + bit := by ring
  exact Nat.div_eq_of_lt_le (by omega) (by omega)

/-- Bit `k` of character `i` is on TXD in its bit-time: the start bit, a data bit or the stop bit (R158, R169). -/
theorem TxFrame.level_at {f : TxFrame} {i k bit : Nat} {b : Byte} (hbyte : f.bytes[i]? = some b) (hk : k < 10)
    (hlow : (f.bytes.length * 10 - (i * 10 + k)) * bit - bit < f.remaining)
    (hhigh : f.remaining ≤ (f.bytes.length * 10 - (i * 10 + k)) * bit) :
    f.level bit = if k = 0 then false else if k = 9 then true else b.getLsbD (k - 1) := by
  have hi : i < f.bytes.length := (List.getElem?_eq_some_iff.mp hbyte).1
  have hsent : (f.bytes.length * 10 * bit - f.remaining) / bit = i * 10 + k :=
    bitsSent_eq (by omega) hlow hhigh
  have hmod : (i * 10 + k) % 10 = k := by omega
  have hdiv : (i * 10 + k) / 10 = i := by omega
  have hremaining : f.remaining ≠ 0 := by omega
  have hget : f.bytes.getD i 0xFF#8 = b := by rw [List.getD_eq_getElem?_getD, hbyte, Option.getD_some]
  simp only [TxFrame.level, hsent, hmod, hdiv, hremaining, hget, if_false]

/-- Settles O12: a frame that ends makes room for a choice, and the levels of TXD are those of the frame. -/
theorem frameEndFreesTransmitter : Obligations.FrameEndFreesTransmitter := by
  refine ⟨fun s t c h => exec_settled h, ?_, fun s cause h => ?_, fun s h => State.txd_of_free h,
    fun s f i k b h hframe hbyte hk hlow hhigh => ?_⟩
  · intro s f h hframe unit hunit
    obtain rfl : unit = s.afterFrame f := hunit
    refine ⟨_, exec_frameEnd_of_frame h hframe, rfl, by rw [State.transmit_offWire]; rfl, State.transmit_settled _,
      fun himmediate hreply hdue => ?_⟩
    have hsettled : ({ s with tx := { frame := none, lastServed := s.tx.lastServed },
                              notices := s.afterFrame f } : State).settled := .inr ⟨himmediate, hreply, hdue⟩
    rw [State.transmit_of_settled hsettled]
    exact ⟨rfl, State.txd_of_free h rfl⟩
  · simp only [State.txd, h]
  · simp only [State.txd, h, hframe]
    exact TxFrame.level_at hbyte hk hlow hhigh

end Sys2Proof.Machine
end

section
/-! PROOFS. The resend timer (R135, R137), and the end of DEAF at the arrival of a frame, with the STATUS request (R134,
R137, R142, R154). -/

namespace Sys2Proof.Machine

/-! ## A FREE transmitter after its choice (R168) -/

/-- What leaves the transmitter FREE was no choice. -/
theorem State.transmit_eq_of_free {s : State} : s.transmit.tx.frame = none → s.transmit = s :=
  s.transmit_cases (P := fun t => t.tx.frame = none → t = s) (fun _ => rfl) (fun _ _ _ _ => nofun)
    (fun _ _ _ _ => nofun) fun _ _ _ _ => nofun

/-- Nothing waits for a FREE transmitter that has chosen. -/
theorem State.settled.nothing_waits {s : State} (h : s.settled) (hfree : s.tx.frame = none) :
    s.tracker.immediate = [] ∧ s.outgoingReply = none ∧ s.notices.due = none :=
  h.resolve_left (by simp [hfree])

/-- With a resend due on a LIVE unit a FREE transmitter takes the oldest notice, or a reply before it (R134, R168). -/
theorem State.transmit_of_resend {s : State} {oldest : Notice} {younger : List Notice} (hfree : s.tx.frame = none)
    (hlive : s.notices.link = .live) (hresend : s.notices.resendDue = true)
    (hqueue : s.notices.queue = oldest :: younger) :
    (s.transmit.notices.resendDue = false ∧
      (s.transmit.tx.frame.map fun f => (f.bytes, f.notice)) =
        some (frameBytes 0xF0#8 0x00#8 oldest.toBytes, some oldest.number)) ∨
    (s.transmit.notices.resendDue = true ∧ s.transmit.tx.frame.map TxFrame.notice = some none) := by
  have hdue : s.notices.due = some oldest := by rw [NoticeUnit.due_of_resend hlive hresend, hqueue]; rfl
  have hchoice : s.transmit ≠ s := fun hsame => by
    have hsettled := s.transmit_settled
    rw [hsame] at hsettled
    obtain ⟨-, -, hnone⟩ := hsettled.nothing_waits hfree
    cases hdue.symm.trans hnone
  revert hchoice
  refine s.transmit_cases (P := fun t => t ≠ s → (t.notices.resendDue = false ∧
    (t.tx.frame.map fun f => (f.bytes, f.notice)) =
      some (frameBytes 0xF0#8 0x00#8 oldest.toBytes, some oldest.number)) ∨
    (t.notices.resendDue = true ∧ t.tx.frame.map TxFrame.notice = some none)) (absurd rfl) ?_ ?_ ?_
  · exact fun _ _ _ _ _ => .inr ⟨hresend, rfl⟩
  · exact fun _ _ _ _ _ => .inr ⟨hresend, rfl⟩
  · intro n _ _ hn _
    obtain rfl : oldest = n := Option.some.inj (hdue.symm.trans hn)
    exact .inl ⟨rfl, rfl⟩

/-! ## The resend timer (R135) -/

namespace NoticeUnit

variable {u : NoticeUnit} {n limit : Nat}

theorem expire_of_below (htimer : u.resendTimer = some n) (hcount : u.resendCount < limit) :
    u.expire limit = { u with resendCount := u.resendCount + 1, resendDue := true, resendTimer := none } := by
  simp only [NoticeUnit.expire, htimer, hcount, if_true]

theorem expire_of_limit (htimer : u.resendTimer = some n) (hcount : limit ≤ u.resendCount) :
    u.expire limit = { u with link := .deaf, resendDue := false, resendTimer := none } := by
  simp only [NoticeUnit.expire, htimer, Nat.not_lt.mpr hcount, if_false]

theorem expire_of_stopped (htimer : u.resendTimer = none) : u.expire limit = u := by
  simp only [NoticeUnit.expire, htimer]

end NoticeUnit

/-- A DEAF unit has nothing due, and a choice does not make a resend due. -/
theorem State.transmit_of_deaf {s : State} (hdeaf : s.notices.link = .deaf) (hresend : s.notices.resendDue = false) :
    s.transmit.notices.due = none ∧ s.transmit.notices.resendDue = false := by
  refine ⟨NoticeUnit.due_of_deaf (by simpa using hdeaf), ?_⟩
  exact s.transmit_cases (P := fun t => t.notices.resendDue = false) hresend (fun _ _ _ _ => hresend)
    (fun _ _ _ _ => hresend) fun _ _ _ _ => rfl

/-- The state after an expiry below the limit, before the choice that follows (R135). -/
def State.resendMadeDue (s : State) : State :=
  { s.transmit with
    notices := { s.transmit.notices with resendCount := s.notices.resendCount + 1, resendDue := true,
                                         resendTimer := none } }

theorem exec_resendTimerExpiry_of_below {s : State} {n : Nat} (h : s.phase = .running)
    (htimer : s.notices.resendTimer = some n) (hcount : s.notices.resendCount < s.timing.resendLimit) :
    exec .resendTimerExpiry s = .next s.resendMadeDue.transmit := by
  have hexpire : s.transmit.notices.expire s.transmit.timing.resendLimit =
      { s.transmit.notices with resendCount := s.transmit.notices.resendCount + 1, resendDue := true,
                                resendTimer := none } :=
    NoticeUnit.expire_of_below (by simpa using htimer) (by simpa using hcount)
  rw [exec_resendTimerExpiry h, State.resendExpiry, hexpire, State.transmit_resendCount]
  rfl

/-- Settles O38: below the limit, at the limit, and with the timer stopped. -/
theorem resendExpiry : Obligations.ResendExpiry := by
  refine fun s h => ⟨fun n htimer hcount => ?_, fun n htimer hcount => ?_, fun htimer => ?_⟩
  · refine ⟨_, exec_resendTimerExpiry_of_below h htimer hcount, ?_, rfl, fun hsending => ?_,
      fun oldest younger hfree hlive hqueue => ?_⟩
    · rw [State.transmit_offWire]
      apply State.offWire_ext <;> simp [State.resendMadeDue]
    · rw [State.transmit_of_sending (s := s.resendMadeDue) hsending]
      exact ⟨rfl, rfl⟩
    · obtain ⟨himmediate, hreply, -⟩ := s.transmit_settled.nothing_waits hfree
      have hsame : s.transmit.notices.queue = oldest :: younger := by rw [State.transmit_eq_of_free hfree, hqueue]
      have hdue : s.resendMadeDue.notices.due = some oldest := by
        rw [NoticeUnit.due_of_resend (by simpa [State.resendMadeDue] using hlive) rfl]
        exact congrArg List.head? hsame
      rw [State.transmit_of_notice (s := s.resendMadeDue) hfree himmediate hdue (.inl hreply)]
      exact ⟨rfl, rfl⟩
  · have hexpire : s.transmit.notices.expire s.transmit.timing.resendLimit =
        { s.transmit.notices with link := .deaf, resendDue := false, resendTimer := none } :=
      NoticeUnit.expire_of_limit (by simpa using htimer) (by simpa using hcount)
    refine ⟨_, exec_resendTimerExpiry h, ?_, ?_⟩
    · rw [State.transmit_offWire, State.resendExpiry, hexpire]
      apply State.offWire_ext <;> simp
    · rw [State.resendExpiry, hexpire]
      exact State.transmit_of_deaf rfl rfl
  · refine ⟨_, exec_resendTimerExpiry h, ?_⟩
    rw [State.transmit_offWire, State.resendExpiry, NoticeUnit.expire_of_stopped (by simpa using htimer)]
    exact s.transmit_offWire

/-! ## An immediate answer and the notice unit (R152) -/

/-- The answer placed last is no notice: the choice that follows it leaves the notice unit alone. -/
theorem State.answer_transmit_notices {s x : State} (htx : x.tx = s.transmit.tx)
    (himmediate : x.tracker.immediate = s.transmit.tracker.immediate) (kind tagByte : Byte) (status : Status)
    (contents : List Byte) : (x.answer kind tagByte status contents).transmit.notices = x.notices := by
  by_cases hsending : x.tx.frame.isSome = true
  · rw [State.transmit_of_sending (s := x.answer kind tagByte status contents) hsending]
    rfl
  · have hfree : x.tx.frame = none := by simpa using hsending
    have hnone : x.tracker.immediate = [] := by rw [himmediate, State.transmit_immediate (by rw [← htx, hfree])]
    rw [(State.answer_transmit_of_nil hnone kind tagByte status contents).2 hfree]
    rfl

/-- An arrival that is answered at once does to the notice unit what the DEAF exit does (R137, R166). -/
theorem exec_answers_notices {s t : State} (h : s.phase = .running) {k : Kind} {tagByte : Byte} {body : List Byte}
    {status : Status} {contents : List Byte}
    (htake : s.transmit.hear.take k.code tagByte body s.transmit.notices.link =
      s.transmit.hear.answer k.code tagByte status contents)
    (hexec : exec (k.command tagByte body) s = .next t) : t.notices = s.transmit.notices.deafExit := by
  rw [exec_command h, State.arrive, htake] at hexec
  cases hexec
  exact State.answer_transmit_notices (x := s.transmit.hear) rfl rfl ..

theorem NoticeUnit.deafExit_of_deaf {u : NoticeUnit} (h : u.link = .deaf) :
    u.deafExit = { u with link := .live, resendCount := 0, resendDue := true } := by
  simp only [NoticeUnit.deafExit, h]

/-! ## STATUS (R154) -/

theorem LinkState.code_eq (l : LinkState) : l.code = if l = .deaf then 1 else 0 := by
  cases l <;> rfl

/-- A choice and the DEAF exit change nothing a STATUS reports (R142, R154). -/
theorem State.statusBytes_transmit_hear (s : State) :
    s.transmit.hear.statusBytes s.transmit.notices.link = s.statusBytes s.notices.link := by
  simp [State.statusBytes]

theorem State.take_status {tagByte : Byte} (hspare : spareClear tagByte = true) (s : State) (prior : LinkState) :
    s.take Kind.status.code tagByte [] prior = s.answer Kind.status.code tagByte .ok (s.statusBytes prior) := by
  rw [State.take, Kind.ofByte?_code]
  simp only [takeStatus, hspare]
  rfl

/-! ## The DEAF exit (R137) -/

/-- Every arrival but a NOTICE_ACK's takes a DEAF unit to LIVE with a resend due, and leaves the frame in transmission
(R137). -/
theorem State.arrive_of_deaf {s : State} (hdeaf : s.notices.link = .deaf) {kind : Byte}
    (hack : kind ≠ Kind.noticeAck.code) (tagByte : Byte) (body : List Byte) :
    (s.arrive kind tagByte body).notices = { s.notices with link := .live, resendCount := 0, resendDue := true } ∧
      (s.arrive kind tagByte body).tx = s.tx := by
  obtain ⟨hnotices, htx⟩ := State.take_notices_of_not_ack hack s.hear tagByte body s.notices.link
  refine ⟨?_, htx⟩
  rw [State.hear_notices, NoticeUnit.deafExit_of_deaf hdeaf] at hnotices
  exact hnotices.elim id id

/-- What the arrival of such a frame on a DEAF unit leaves, by whether the transmitter is FREE (R134, R168). -/
theorem State.arrive_transmit_of_deaf {s : State} (hdeaf : s.notices.link = .deaf) {kind : Byte}
    (hack : kind ≠ Kind.noticeAck.code) (tagByte : Byte) (body : List Byte) :
    let t := (s.transmit.arrive kind tagByte body).transmit
    t.notices.link = .live ∧ t.notices.resendCount = 0 ∧
      (s.transmit.tx.frame.isSome = true → t.notices.resendDue = true ∧ t.tx = s.transmit.tx) ∧
      (∀ oldest younger, s.transmit.tx.frame = none → s.notices.queue = oldest :: younger →
        (t.notices.resendDue = false ∧
          (t.tx.frame.map fun f => (f.bytes, f.notice)) =
            some (frameBytes 0xF0#8 0x00#8 oldest.toBytes, some oldest.number)) ∨
        (t.notices.resendDue = true ∧ t.tx.frame.map TxFrame.notice = some none)) := by
  obtain ⟨hnotices, htx⟩ := State.arrive_of_deaf (s := s.transmit) (by simpa using hdeaf) hack tagByte body
  refine ⟨by rw [State.transmit_link, hnotices], by rw [State.transmit_resendCount, hnotices], fun hsending => ?_,
    fun oldest younger hfree hqueue => ?_⟩
  · rw [State.transmit_of_sending (by rw [htx, hsending]), hnotices]
    exact ⟨rfl, htx⟩
  · refine State.transmit_of_resend (by rw [htx, hfree]) (by rw [hnotices]) (by rw [hnotices]) (younger := younger) ?_
    rw [hnotices, State.transmit_eq_of_free hfree, hqueue]

/-- Settles O31: STATUS is answered from the state as it stands, and every frame but a NOTICE_ACK ends DEAF alike. -/
theorem statusAnswers : Obligations.StatusAnswers := by
  refine ⟨fun s tagByte h hspare => ?_, fun s c tagByte body h hdeaf hc => ?_⟩
  · have htake := State.take_status hspare s.transmit.hear s.transmit.notices.link
    rw [State.statusBytes_transmit_hear] at htake
    obtain ⟨t, hexec, hoff, hanswered⟩ := exec_answers h (k := .status) htake
    have hnotices := exec_answers_notices h (k := .status) htake hexec
    refine ⟨t, hexec, hoff, by rw [hnotices, NoticeUnit.deafExit_link], ?_, fun hdeaf => ?_⟩
    · rw [State.statusBytes, LinkState.code_eq] at hanswered
      exact hanswered
    · rw [hnotices, NoticeUnit.deafExit_of_deaf (by simpa using hdeaf)]
      exact ⟨rfl, rfl⟩
  · rcases hc with ⟨k, hk, rfl⟩ | ⟨kind, hunlisted, rfl⟩
    · have hack : k.code ≠ Kind.noticeAck.code := fun hcode =>
        hk (Option.some.inj (by rw [← Kind.ofByte?_code k, hcode, Kind.ofByte?_code]))
      exact ⟨_, exec_command h k tagByte body, State.arrive_transmit_of_deaf hdeaf hack tagByte body⟩
    · have hack : kind ≠ Kind.noticeAck.code := fun hcode => by
        have hnone := Kind.ofByte?_eq_none hunlisted
        rw [hcode, Kind.ofByte?_code] at hnone
        cases hnone
      exact ⟨_, exec_unknownKind h kind tagByte body, State.arrive_transmit_of_deaf hdeaf hack tagByte body⟩

end Sys2Proof.Machine
end

section
/-! PROOFS. NOTICE_ACK (R138), also where it falls at the same time as the entry of a notice (R139): the frame of the
acknowledgement at the receiver, what the entry leaves of the queue, and the resend timer that is not started. -/

namespace Sys2Proof.Machine

/-! ## The acknowledgement (R138) -/

/-- The first notice with the number is removed with all older ones. -/
theorem afterNumber_of_split {older younger : List Notice} {x : Notice} {n : Nat} (hx : x.number = n)
    (holder : ∀ y ∈ older, y.number ≠ n) : afterNumber n (older ++ x :: younger) = younger := by
  induction older with
  | nil => simp [afterNumber, hx]
  | cons y older ih =>
    rw [List.cons_append, afterNumber, if_neg (holder y List.mem_cons_self)]
    exact ih fun z hz => holder z (List.mem_cons_of_mem y hz)

/-- A body of a notice number is read as that number (R138, R170). -/
theorem readNoticeAck_be2 {n : Nat} (hn : n ≤ 65535) : readNoticeAck true (be2 n) = .ok n := by
  have hfield : fieldAt (be2 n) 0 2 = n := (beNat_be2 n).trans (Nat.mod_eq_of_lt (by omega))
  rw [readNoticeAck, hfield]
  rfl

/-- The state after an acknowledgement that removes notices, before its answer (R138). -/
def State.acknowledged (s : State) (n : Nat) : State :=
  { s with notices := s.notices.acknowledge n s.resendTime s.timerAtFrameEnd }

section
variable {tagByte : Byte} {n : Nat} (hspare : spareClear tagByte = true) (hn : n ≤ 65535)
include hspare hn

theorem State.take_noticeAck (s : State) (prior : LinkState) :
    s.take Kind.noticeAck.code tagByte (be2 n) prior =
      if s.notices.queue.any (fun x => x.number = n) then
        (s.acknowledged n).answer Kind.noticeAck.code tagByte .ok
          (be1 (s.notices.queue.length - (s.acknowledged n).notices.queue.length))
      else s.answer Kind.noticeAck.code tagByte .ackUnknown (be1 0) := by
  rw [State.take, Kind.ofByte?_code]
  simp only [takeNoticeAck, hspare, readNoticeAck_be2 hn]
  rfl

theorem State.take_noticeAck_of_queued {s : State} (hqueued : ∃ x ∈ s.notices.queue, x.number = n)
    (prior : LinkState) :
    s.take Kind.noticeAck.code tagByte (be2 n) prior =
      (s.acknowledged n).answer Kind.noticeAck.code tagByte .ok
        (be1 (s.notices.queue.length - (s.acknowledged n).notices.queue.length)) := by
  rw [State.take_noticeAck hspare hn, if_pos]
  simpa using hqueued

theorem State.take_noticeAck_of_unknown {s : State} (hunknown : ∀ x ∈ s.notices.queue, x.number ≠ n)
    (prior : LinkState) :
    s.take Kind.noticeAck.code tagByte (be2 n) prior =
      s.answer Kind.noticeAck.code tagByte .ackUnknown (be1 0) := by
  rw [State.take_noticeAck hspare hn, if_neg]
  simpa using hunknown

/-- After the choice that is open and the DEAF exit, the acknowledgement of a queued notice: what it answers, and the
choice that follows it leaves the notice unit alone. -/
theorem State.arrive_noticeAck {s : State} (hqueued : ∃ x ∈ s.transmit.notices.queue, x.number = n) :
    s.transmit.arrive Kind.noticeAck.code tagByte (be2 n) =
        (s.transmit.hear.acknowledged n).answer Kind.noticeAck.code tagByte .ok
          (be1 (s.transmit.notices.queue.length - (s.transmit.hear.acknowledged n).notices.queue.length)) ∧
      (s.transmit.arrive Kind.noticeAck.code tagByte (be2 n)).transmit.notices =
        (s.transmit.hear.acknowledged n).notices := by
  have harrive : s.transmit.arrive Kind.noticeAck.code tagByte (be2 n) = _ :=
    State.take_noticeAck_of_queued hspare hn (s := s.transmit.hear) (by simpa using hqueued) s.transmit.notices.link
  rw [harrive]
  exact ⟨by simp, State.answer_transmit_notices (x := s.transmit.hear.acknowledged n) rfl rfl ..⟩

end

/-! ## The frame of an acknowledgement at the receiver (R160, R162 to R166) -/

theorem frameBytes_length (kind tagByte : Byte) (body : List Byte) :
    (frameBytes kind tagByte body).length = frameLength body.length := by
  simp [frameBytes, frameLength, be1, be2]

/-- A frame as it is built passes its CRC (R161, R165). -/
theorem crcMatches_frameBytes (kind tagByte : Byte) (body : List Byte) :
    crcMatches (frameBytes kind tagByte body) = true := by
  have hlength : (frameBytes kind tagByte body).length = body.length + 6 := frameBytes_length ..
  have hcovered : (be1 body.length ++ [kind, tagByte] ++ body).length = body.length + 3 := by simp [be1]
  have htake : ((frameBytes kind tagByte body).drop 1).take (body.length + 3) =
      be1 body.length ++ [kind, tagByte] ++ body := List.take_left' hcovered
  have hdrop : (frameBytes kind tagByte body).drop (body.length + 4) =
      be2 (crc16 (be1 body.length ++ [kind, tagByte] ++ body)).toNat :=
    List.drop_left' (by rw [List.length_append, hcovered]; simp; omega)
  simp only [crcMatches, hlength]
  exact decide_eq_true (by rw [show body.length + 6 - 2 = body.length + 4 from rfl,
    show body.length + 6 - 3 = body.length + 3 from rfl, hdrop, htake])

/-- A whole good frame is handed over, and the receiver is in HUNT after it (R162 to R166). -/
theorem State.scan_frameBytes {body : List Byte} (hbody : body.length ≤ Config.maxBody) (s : State) (fuel : Nat)
    (kind tagByte : Byte) :
    s.scan (fuel + 1) (frameBytes kind tagByte body) =
      (((s.holdBytes []).arrive kind tagByte body).transmit).scan fuel [] := by
  have hmax : body.length ≤ 240 := hbody
  have hlen : (BitVec.ofNat 8 body.length).toNat = body.length := by
    rw [BitVec.toNat_ofNat, Nat.mod_eq_of_lt (by omega)]
  have hlength := frameBytes_length kind tagByte body
  have hframe : frameBytes kind tagByte body = Config.sync :: BitVec.ofNat 8 body.length ::
      (kind :: tagByte :: body ++ be2 (crc16 (be1 body.length ++ [kind, tagByte] ++ body)).toNat) := by
    simp [frameBytes, be1]
  have hwhole : ¬ (kind :: tagByte :: body ++
      be2 (crc16 (be1 body.length ++ [kind, tagByte] ++ body)).toNat).length + 2 < frameLength body.length := by
    simp [frameLength, be2]
  have hhandOver : s.handOver (frameBytes kind tagByte body) =
      ((s.holdBytes []).arrive kind tagByte body).transmit := by
    unfold State.handOver
    rw [hlength, hframe]
    simp [frameLength]
  have htake : (frameBytes kind tagByte body).take (frameLength body.length) = frameBytes kind tagByte body :=
    List.take_of_length_le (by rw [hlength])
  have hdrop : (frameBytes kind tagByte body).drop (frameLength body.length) = [] :=
    List.drop_of_length_le (by rw [hlength])
  conv_lhs => rw [hframe]
  rw [State.scan_frame, hlen, if_neg (by omega), if_neg hwhole, ← hframe, htake, hdrop,
    if_pos (crcMatches_frameBytes ..), hhandOver]

section
variable {s : State} {kind tagByte b : Byte} {body : List Byte} {stopHigh : Bool} (hline : s.rx.line = .looking)
  (hbody : body.length ≤ Config.maxBody) (hlast : s.rx.held ++ [b] = frameBytes kind tagByte body)
include hline hbody hlast

/-- The last character of a frame is the arrival of the frame, with the choice after it; the receiver is in HUNT then
(R159, R162 to R166). -/
theorem State.byteArrival_eq_of_last :
    s.byteArrival b stopHigh =
      ((({ s with rx := { s.rx with line := if stopHigh then .looking else .waitHigh, held := [] } } : State).arrive
        kind tagByte body).transmit.holdBytes []).restartGapTimer := by
  unfold State.byteArrival State.receive
  rw [hline]
  dsimp only
  rw [hlast, State.scan_frameBytes hbody, frameBytes_length]
  rfl

/-- The notice unit after the last character of a frame, whose choice leaves nothing that waits (R166, R168). -/
theorem State.byteArrival_last :
    (∃ rx : Receiver, (s.byteArrival b stopHigh).notices =
        (({ s with rx := rx } : State).arrive kind tagByte body).transmit.notices) ∧
      (s.byteArrival b stopHigh).settled := by
  have hhunt (y : State) : (y.holdBytes []).restartGapTimer.notices = y.notices ∧
      (y.settled → (y.holdBytes []).restartGapTimer.settled) := ⟨rfl, id⟩
  rw [State.byteArrival_eq_of_last hline hbody hlast]
  exact ⟨⟨_, (hhunt _).1⟩, (hhunt _).2 (State.transmit_settled _)⟩

end

/-! ## What brings an acknowledgement (R139) -/

/-- The command is the arrival of the NOTICE_ACK of number `n` at a receiver `rx`: its row, an UNKNOWN_KIND of its KIND,
or the last character of its frame. -/
def bringsAck (ack : Instr) (rx : Receiver) (tagByte : Byte) (n : Nat) : Prop :=
  ack = .noticeAck tagByte (be2 n) ∨ ack = .unknownKind 0x60#8 tagByte (be2 n) ∨
    ∃ b stopHigh, ack = .byteArrival b stopHigh ∧ rx.line = .looking ∧
      rx.held ++ [b] = frameBytes 0x60#8 tagByte (be2 n)

/-- Whatever brings it, the acknowledgement of a queued notice does to the notice unit what R138 says, and no choice of
the transmitter goes beside it. -/
theorem bringsAck.spec {ack : Instr} {rx : Receiver} {tagByte : Byte} {n : Nat}
    (h : bringsAck ack rx tagByte n) (hspare : spareClear tagByte = true) (hn : n ≤ 65535) :
    ∃ effect, arrivalOf ack = some effect ∧
      ∀ s : State, s.phase = .running → s.settled → s.rx = rx → (∃ x ∈ s.notices.queue, x.number = n) →
        (effect s).notices = (s.hear.acknowledged n).notices ∧
          ∃ t, exec ack s = .next t ∧ t.notices = (s.hear.acknowledged n).notices := by
  have harrive {s : State} (hsettled : s.settled) (hqueued : ∃ x ∈ s.notices.queue, x.number = n) :
      (s.arrive Kind.noticeAck.code tagByte (be2 n)).notices = (s.hear.acknowledged n).notices ∧
        (s.arrive Kind.noticeAck.code tagByte (be2 n)).transmit.notices = (s.hear.acknowledged n).notices := by
    have hspec := State.arrive_noticeAck hspare hn (s := s) (by rwa [State.transmit_of_settled hsettled])
    rw [State.transmit_of_settled hsettled] at hspec
    exact ⟨by rw [hspec.1]; rfl, hspec.2⟩
  rcases h with rfl | rfl | ⟨b, stopHigh, rfl, hline, hlast⟩
  · refine ⟨_, rfl, fun s hphase hsettled _ hqueued => ?_⟩
    obtain ⟨heffect, hchosen⟩ := harrive hsettled hqueued
    refine ⟨heffect, _, exec_command hphase .noticeAck tagByte _, ?_⟩
    rw [State.transmit_of_settled hsettled, hchosen]
  · refine ⟨_, rfl, fun s hphase hsettled _ hqueued => ?_⟩
    obtain ⟨heffect, hchosen⟩ := harrive hsettled hqueued
    refine ⟨heffect, _, exec_unknownKind hphase .., ?_⟩
    rw [State.transmit_of_settled hsettled]
    exact hchosen
  · refine ⟨_, rfl, fun s hphase hsettled hrx hqueued => ?_⟩
    subst hrx
    obtain ⟨⟨rx, hnotices⟩, hdone⟩ := State.byteArrival_last (s := s) (kind := Kind.noticeAck.code)
      (stopHigh := stopHigh) hline (by simp [be2, Config.maxBody]) hlast
    have heffect : (s.byteArrival b stopHigh).notices = (s.hear.acknowledged n).notices :=
      hnotices.trans (harrive (s := { s with rx := rx }) hsettled hqueued).2
    refine ⟨heffect, _, exec_byteArrival hphase .., ?_⟩
    rw [State.transmit_of_settled hsettled, State.transmit_of_settled hdone, heffect]

end Sys2Proof.Machine
end

section
/-! PROOFS. What an event that may enter notices leaves of the queue, and the acknowledgement that falls at the same
time (R133, R138, R139, R168). -/

namespace Sys2Proof.Machine

/-! ## The acknowledgement of a queued notice and of another one (R138) -/

/-- The resend timer after an acknowledgement that leaves this queue: it runs for an oldest notice that is sent, but not
for the one whose timer waits for the end of its frame (R138, R139). -/
def timerAfterAck (waits : Option Nat) (periods : Nat) : List Notice → Option Nat
  | [] => none
  | oldest :: _ => if oldest.sent = true ∧ waits ≠ some oldest.number then some periods else none

/-- What R138 makes of the notice unit, written out. -/
theorem State.acknowledged_notices {s : State} {older younger : List Notice} {x : Notice} {n : Nat}
    (hqueue : s.notices.queue = older ++ x :: younger) (hx : x.number = n) (holder : ∀ y ∈ older, y.number ≠ n) :
    (s.acknowledged n).notices =
      { s.notices with
        queue := younger, resendDue := false, resendCount := 0,
        resendTimer := timerAfterAck s.timerAtFrameEnd s.resendTime younger } := by
  simp only [State.acknowledged, NoticeUnit.acknowledge, hqueue, afterNumber_of_split hx holder]
  cases younger <;> rfl

/-- The timer of a new oldest notice is told by the frame in transmission and by the resend interval (R136, R139). -/
theorem State.timerAfterAck_transmit_hear (s : State) (oldest : Notice) (younger : List Notice) :
    timerAfterAck s.transmit.hear.timerAtFrameEnd s.transmit.hear.resendTime (oldest :: younger) =
      if oldest.sent = true ∧
          (s.transmit.tx.frame.map fun f => (f.timerAtEnd, f.notice)) ≠ some (true, some oldest.number) then
        some (s.timing.resendInterval * 50000)
      else none := by
  have htime : s.transmit.hear.resendTime = s.timing.resendInterval * 50000 := by
    simp [State.resendTime, Config.perMilli]
  have hwaits : s.transmit.hear.timerAtFrameEnd ≠ some oldest.number ↔
      (s.transmit.tx.frame.map fun f => (f.timerAtEnd, f.notice)) ≠ some (true, some oldest.number) :=
    not_congr s.transmit.timerAtFrameEnd_eq_some
  simp only [timerAfterAck, htime, hwaits]

/-- A NOTICE_ACK of a queued number: the notice unit it leaves, and its answer (R138). -/
theorem exec_noticeAck_of_queued {s : State} {tagByte : Byte} {n : Nat} (h : s.phase = .running)
    (hspare : spareClear tagByte = true) (hn : n ≤ 65535) {older younger : List Notice} {x : Notice}
    (hqueue : s.transmit.notices.queue = older ++ x :: younger) (hx : x.number = n)
    (holder : ∀ y ∈ older, y.number ≠ n) :
    ∃ t, exec (.noticeAck tagByte (be2 n)) s = .next t ∧
      t.notices = (s.transmit.hear.acknowledged n).notices ∧
      t.offWire = { s with notices := t.notices }.offWire ∧
      s.answered t { kind := 0xE0#8, tagByte := tagByte, body := 0x00#8 :: be1 (older.length + 1) } := by
  have hheard : s.transmit.hear.notices.queue = older ++ x :: younger := by rw [State.hear_notices]; simpa using hqueue
  have hcount : s.transmit.notices.queue.length - (s.transmit.hear.acknowledged n).notices.queue.length =
      older.length + 1 := by
    rw [State.acknowledged_notices hheard hx holder, hqueue]
    simp only [List.length_append, List.length_cons]
    omega
  obtain ⟨harrive, hnotices⟩ := State.arrive_noticeAck hspare hn (s := s) ⟨x, by simp [hqueue], hx⟩
  refine ⟨_, exec_command h .noticeAck tagByte _, hnotices, ?_, ?_⟩
  · rw [hnotices, State.transmit_offWire, harrive, State.answer_offWire]
    apply State.offWire_ext <;> simp [State.acknowledged]
  · rw [harrive, hcount]
    exact State.answered_of_answer (x := s.transmit.hear.acknowledged n) rfl rfl rfl ..

/-- A choice of the transmitter changes no number. -/
theorem State.transmit_numbers (s : State) :
    s.transmit.notices.queue.map Notice.number = s.notices.queue.map Notice.number := by
  obtain ⟨mark, hqueue, hmark⟩ := s.transmit_marks
  rw [hqueue, List.map_map]
  exact List.map_congr_left fun x _ => (hmark x).1

/-- A NOTICE_ACK of a number that is not queued (R138). -/
theorem exec_noticeAck_of_unknown {s : State} {tagByte : Byte} {n : Nat} (h : s.phase = .running)
    (hspare : spareClear tagByte = true) (hn : n ≤ 65535) (hunknown : ∀ y ∈ s.notices.queue, y.number ≠ n) :
    ∃ t, exec (.noticeAck tagByte (be2 n)) s = .next t ∧ t.offWire = s.hear.offWire ∧
      s.answered t { kind := 0xE0#8, tagByte := tagByte, body := [0x17#8, 0x00#8] } ∧
      t.notices = s.transmit.notices.deafExit := by
  have habsent : n ∉ s.transmit.hear.notices.queue.map Notice.number := by
    rw [State.hear_notices, NoticeUnit.deafExit_queue, State.transmit_numbers]
    exact fun hmem => by
      obtain ⟨y, hy, hnumber⟩ := List.mem_map.mp hmem
      exact hunknown y hy hnumber
  have htake := State.take_noticeAck_of_unknown hspare hn (s := s.transmit.hear)
    (fun y hy hnumber => habsent (List.mem_map.mpr ⟨y, hy, hnumber⟩)) s.transmit.notices.link
  obtain ⟨t, hexec, hoff, hanswered⟩ := exec_answers h (k := .noticeAck) htake
  exact ⟨t, hexec, hoff, hanswered, exec_answers_notices h (k := .noticeAck) htake hexec⟩

/-! ## What an entry leaves (R131, R133) -/

/-- The queue after an entry in two parts: the notices that stood before, and the entered ones. -/
theorem map_append_split {mark : Notice → Notice} {queue new older entered : List Notice} {x : Notice}
    (h : (queue ++ new).map mark = older ++ x :: entered) (hlength : older.length + 1 = queue.length) :
    queue.map mark = older ++ [x] ∧ new.map mark = entered := by
  rw [List.map_append, List.append_cons] at h
  exact List.append_inj h (by simp [hlength])

/-- Marks that change no number do not change what an acknowledgement removes. -/
theorem afterNumber_map {mark : Notice → Notice} (hmark : ∀ x, (mark x).number = x.number) (n : Nat)
    (queue : List Notice) : afterNumber n (queue.map mark) = (afterNumber n queue).map mark := by
  induction queue with
  | nil => rfl
  | cons x rest ih =>
    rw [List.map_cons, afterNumber, afterNumber, hmark]
    split
    · rfl
    · exact ih

/-- The commands that may enter notices touch the notice unit by entries only (R131). -/
theorem exec_entry {s t : State} {entry : Instr} (h : s.phase = .running)
    (hentry : entry = .intervalEnd ∨ ∃ ready deferred lines, entry = .accessEnd ready deferred lines)
    (hexec : exec entry s = .next t) :
    ∃ a, s.transmit.enteredOnly a ∧ t = s.transmit.chooseAfterEntry a := by
  rcases hentry with rfl | ⟨ready, deferred, lines, rfl⟩
  · rw [exec_intervalEnd h] at hexec
    cases hexec
    exact ⟨_, State.intervalEnd_enteredOnly _, rfl⟩
  · rw [exec_accessEnd h] at hexec
    cases hexec
    exact ⟨_, State.accessEnd_enteredOnly .., rfl⟩

/-- The number on TXD waits for its timer once the frame is marked (R139). -/
theorem State.deferTimer_timerAtFrameEnd (s : State) :
    s.deferTimer.timerAtFrameEnd = s.tx.frame.bind TxFrame.notice := by
  cases hframe : s.tx.frame with
  | none => simp [State.timerAtFrameEnd, State.deferTimer, hframe]
  | some f => cases hnotice : f.notice <;> simp [State.timerAtFrameEnd, State.deferTimer, hframe, hnotice]

theorem State.ackEmptiesBehind_of_arrival {s : State} {ack : Instr} {rest : List Instr} {effect : State → State}
    (hqueue : s.notices.queue ≠ []) (hpending : s.pending = ack :: rest) (harrival : arrivalOf ack = some effect)
    (hempties : (effect s).notices.queue = []) : s.ackEmptiesBehind = true := by
  simp [State.ackEmptiesBehind, hqueue, hpending, harrival, hempties]

section
variable {b a : State} {older entered : List Notice} {x : Notice} (hentered : b.enteredOnly a)
  (hqueue : (b.chooseAfterEntry a).notices.queue = older ++ x :: entered)
  (hlength : older.length + 1 = b.notices.queue.length)
include hentered hqueue hlength

/-- Of the queue after an entry the older part is what stood before, but for sent marks; an entered notice is sent only
if a FREE transmitter has put it on TXD when it joined (R133, R134, R169). -/
theorem State.chooseAfterEntry_split :
    (∃ mark : Notice → Notice, (∀ z, (mark z).number = z.number) ∧ b.notices.queue.map mark = older ++ [x]) ∧
      ∀ y ∈ entered, y.sent = true →
        a.tx.frame = none ∧ a.transmit.tx.frame.map TxFrame.notice = some (some y.number) := by
  obtain ⟨-, -, -, -, contents, hnotices⟩ := hentered
  obtain ⟨-, -, -, -, new, hnew, hunsent⟩ := NoticeUnit.enterAll_shape contents b.notices
  obtain ⟨mark, hmarked, hmark⟩ := a.transmit_marks
  rw [State.chooseAfterEntry_notices, hmarked, hnotices, hnew] at hqueue
  obtain ⟨hstood, hjoined⟩ := map_append_split hqueue hlength
  refine ⟨⟨mark, fun z => (hmark z).1, hstood⟩, fun y hy hsent => ?_⟩
  rw [← hjoined] at hy
  obtain ⟨z, hz, rfl⟩ := List.mem_map.mp hy
  rw [(hmark z).1]
  exact ((hmark z).2 hsent).resolve_left (by simp [hunsent z hz])

/-- With every notice sent and nothing else waiting, a FREE transmitter of a LIVE unit takes the first entered notice
(R134, R168, R169). -/
theorem State.chooseAfterEntry_takes_entered (htracker : a.tracker = b.tracker) (hsettled : b.settled)
    (hfree : b.tx.frame = none) (hlive : b.notices.link = .live) {y : Notice} {ys : List Notice}
    (hcons : entered = y :: ys) :
    ((b.chooseAfterEntry a).tx.frame.map fun f => (f.bytes, f.notice)) =
        some (frameBytes 0xF0#8 0x00#8 y.toBytes, some y.number) ∧
      y.sent = true := by
  subst hcons
  obtain ⟨htx, -, -, -, contents, hnotices⟩ := hentered
  obtain ⟨hlink, hresend, -, -, new, hnew, hunsent⟩ := NoticeUnit.enterAll_shape contents b.notices
  rw [← hnotices] at hlink hresend hnew
  obtain ⟨himmediate, hreply, hdue⟩ := hsettled.nothing_waits hfree
  have hsent := NoticeUnit.sent_of_due_none hlive hdue
  have hnoResend : b.notices.resendDue = false := by
    by_contra hresendDue
    rw [NoticeUnit.due_of_resend hlive (by simpa using hresendDue), List.head?_eq_none_iff] at hdue
    simp [hdue] at hlength
  rw [State.chooseAfterEntry_notices] at hqueue
  rw [State.chooseAfterEntry_frame]
  cases new with
  | nil =>
    have hcount := a.transmit_noticeCount
    rw [hqueue, hnew] at hcount
    simp only [List.length_append, List.length_cons, List.append_nil] at hcount
    omega
  | cons z zs =>
    have hnext : a.notices.due = some z := NoticeUnit.due_of_unsent (hlink.trans hlive) (hresend.trans hnoResend) hnew
      hsent (hunsent z List.mem_cons_self)
    have hnoReply : a.outgoingReply = none := by
      rw [← hreply]
      simp only [State.outgoingReply, State.tagOf, htracker]
    have htake : a.transmit = a.takeNotice z :=
      State.transmit_of_notice (by rw [htx, hfree]) (by rw [htracker, himmediate]) hnext (.inl hnoReply)
    rw [htake] at hqueue ⊢
    have hmarked : (a.notices.markTaken z).queue = older ++ x :: y :: ys := hqueue
    rw [NoticeUnit.markTaken, hnew] at hmarked
    obtain ⟨-, hjoined⟩ := map_append_split hmarked hlength
    rw [List.map_cons, if_pos rfl] at hjoined
    obtain rfl : { z with sent := true } = y := (List.cons.inj hjoined).1
    exact ⟨rfl, rfl⟩

/-- The acknowledgement that empties the queue at the same time as the entry removes what stood before and starts no
timer, whether the first entered notice has been taken or not (R138, R139). -/
theorem State.ack_after_entry {tagByte : Byte} {n : Nat} {ack : Instr} {rest : List Instr}
    (hspare : spareClear tagByte = true) (hn : n ≤ 65535) (hphase : b.phase = .running) (hsettled : b.settled)
    (hack : bringsAck ack b.rx tagByte n) (hpending : b.pending = ack :: rest) (hx : x.number = n)
    (holder : ∀ y ∈ older, y.number ≠ n) :
    ∃ u, exec ack (b.chooseAfterEntry a) = .next u ∧ u.notices.queue = entered ∧ u.notices.resendTimer = none ∧
      u.notices.resendDue = false := by
  obtain ⟨⟨mark, hmark, hstood⟩, htaken⟩ := State.chooseAfterEntry_split hentered hqueue hlength
  obtain ⟨htx, -, haphase, harx, -⟩ := hentered
  obtain ⟨effect, harrival, hspec⟩ := hack.spec hspare hn
  have hempties : b.ackEmptiesBehind = true := by
    have hbefore : b.notices.queue ≠ [] := fun hempty => by simp [hempty] at hlength
    have hqueued : ∃ z ∈ b.notices.queue, z.number = n := by
      have hmem : x ∈ b.notices.queue.map mark := by simp [hstood]
      obtain ⟨z, hz, rfl⟩ := List.mem_map.mp hmem
      exact ⟨z, hz, (hmark z).symm.trans hx⟩
    have hnone : (afterNumber n b.notices.queue).map mark = [] := by
      rw [← afterNumber_map hmark, hstood, afterNumber_of_split hx holder]
    refine State.ackEmptiesBehind_of_arrival hbefore hpending harrival ?_
    rw [(hspec b hphase hsettled rfl hqueued).1]
    simpa [State.acknowledged, NoticeUnit.acknowledge] using hnone
  have hrx : (b.chooseAfterEntry a).rx = b.rx := (State.chooseAfterEntry_keep (by simp) rfl).trans harx
  obtain ⟨-, u, hexec, hu⟩ := hspec (b.chooseAfterEntry a) (by rw [State.chooseAfterEntry_phase, haphase, hphase])
    (State.chooseAfterEntry_settled b a) hrx ⟨x, by simp [hqueue], hx⟩
  rw [State.acknowledged_notices (by rw [State.hear_notices, NoticeUnit.deafExit_queue, hqueue]) hx holder] at hu
  refine ⟨u, hexec, by rw [hu], ?_, by rw [hu]⟩
  rw [hu]
  cases entered with
  | nil => rfl
  | cons oldest younger =>
    refine if_neg fun ⟨hsent, hwaits⟩ => hwaits ?_
    obtain ⟨hfree, hframe⟩ := htaken oldest List.mem_cons_self hsent
    obtain ⟨f, hf, hnotice⟩ := Option.map_eq_some_iff.mp hframe
    rw [State.chooseAfterEntry_of_ack hempties hfree]
    exact (State.deferTimer_timerAtFrameEnd a.transmit).trans (by rw [hf]; exact hnotice)

end

/-- Settles O37: the acknowledgement of a queued notice, of another number, and at the same time as an entry. -/
theorem noticeAckIsCumulative : Obligations.NoticeAckIsCumulative := by
  intro s tagByte n h hspare hn
  refine ⟨fun older x younger hqueue hx holder => ?_, fun hunknown => ?_,
    fun t entry ack rest older x entered hentry hack hpending hexec hqueue hlength hx holder => ?_⟩
  · obtain ⟨t, hexec, hnotices, hoff, hanswered⟩ := exec_noticeAck_of_queued h hspare hn hqueue hx holder
    refine ⟨t, hexec, ?_, hoff, hanswered⟩
    rw [hnotices, State.acknowledged_notices (by simpa using hqueue) hx holder]
    cases younger with
    | nil => simp [timerAfterAck]
    | cons oldest younger =>
      rw [State.timerAfterAck_transmit_hear]
      simp
  · obtain ⟨t, hexec, hoff, hanswered, hnotices⟩ := exec_noticeAck_of_unknown h hspare hn hunknown
    refine ⟨t, hexec, hoff, hanswered, fun hdeaf => ?_⟩
    rw [hnotices, NoticeUnit.deafExit_of_deaf (by simpa using hdeaf)]
    exact ⟨rfl, rfl⟩
  · obtain ⟨a, hentered, rfl⟩ := exec_entry h hentry hexec
    rw [← s.transmit_noticeCount] at hlength
    have htaken := (State.chooseAfterEntry_split hentered hqueue hlength).2
    have hframe := congrArg (Option.map Prod.snd) (State.chooseAfterEntry_frame s.transmit a)
    rw [Option.map_map, Option.map_map] at hframe
    refine ⟨?_, fun y hy hother => ?_, fun hsending y hy => ?_, fun y ys hinterval hfree hlive hcons => ?_⟩
    · exact State.ack_after_entry hentered hqueue hlength hspare hn (by simpa using h) s.transmit_settled
        (by rw [State.transmit_rx]; exact hack) (by simpa using hpending) hx holder
    · by_contra hsent
      obtain ⟨-, hnumber⟩ := htaken y hy (by simpa using hsent)
      obtain ⟨f, hf, hnotice⟩ := Option.map_eq_some_iff.mp (hframe.trans hnumber)
      exact hother f hf hnotice
    · by_contra hsent
      obtain ⟨hfree, -⟩ := htaken y hy (by simpa using hsent)
      rw [hentered.1] at hfree
      simp [hfree] at hsending
    · subst hinterval
      rw [exec_intervalEnd h] at hexec
      have hsame : s.transmit.chooseAfterEntry s.transmit.intervalEnd = s.transmit.chooseAfterEntry a :=
        Host.Outcome.next.inj hexec
      rw [← hsame] at hqueue ⊢
      exact State.chooseAfterEntry_takes_entered s.transmit.intervalEnd_enteredOnly hqueue hlength rfl
        s.transmit_settled hfree (by simpa using hlive) hcons

end Sys2Proof.Machine
end

section
/-! PROOFS. What the tag table makes of a frame that is not new: an unlisted KIND, tag 0, and a tag that is PENDING or
DONE with the same phase (R144, R145). -/

namespace Sys2Proof.Machine

/-! ## The tag table (R144, R145) -/

/-- Tag 0 is no tag (R144). -/
theorem tagOf?_of_zero {tagByte : Byte} (h : tagByte.toNat % 16 = 0) : tagOf? tagByte = none :=
  dif_neg fun hrange => absurd hrange.1 (by omega)

section
variable {s : State} {kind : Kind} {tagByte : Byte} {tag : Tag} {new : Tag → State → State}

theorem State.tagged_of_noTag (htag : tagOf? tagByte = none) :
    s.tagged kind tagByte new = s.answer kind.code tagByte .badTag [] := by
  simp only [State.tagged, htag]

variable (htag : tagOf? tagByte = some tag)
include htag

/-- A retransmission of what is still in progress is counted (R145). -/
theorem State.tagged_of_pending (hpending : s.tagOf tag = .pending (phaseOf tagByte)) :
    s.tagged kind tagByte new = s.countDuplicate := by
  simp only [State.tagged, htag, hpending, if_true]

/-- A new request under a tag in progress is answered TAG_BUSY (R145). -/
theorem State.tagged_of_busy (hbusy : s.tagOf tag = .pending (!phaseOf tagByte)) :
    s.tagged kind tagByte new = s.answer kind.code tagByte .tagBusy [] := by
  simp [State.tagged, htag, hbusy]

/-- A retransmission of what is answered has its stored reply listed again (R145). -/
theorem State.tagged_of_done {r : Reply} (hdone : s.tagOf tag = .done (phaseOf tagByte) r) :
    s.tagged kind tagByte new = s.list tag := by
  simp only [State.tagged, htag, hdone, if_true]

end

/-- Off the wire a choice and the DEAF exit before a count are the DEAF exit and the count (R137, R145). -/
theorem State.countDuplicate_transmit_hear_offWire (s : State) :
    s.transmit.hear.countDuplicate.offWire =
      { s.hear with
        tracker := { s.tracker with duplicates := min (s.tracker.duplicates + 1) 65535 } }.offWire := by
  apply State.offWire_ext <;> simp [satInc, Config.max16]

/-- An unlisted KIND is answered whatever its tag byte is (R144). -/
theorem exec_unlisted {s : State} (h : s.phase = .running) {kind : Byte}
    (hkind : requestKindCodes.contains kind = false) (tagByte : Byte) (body : List Byte) :
    ∃ t, exec (.unknownKind kind tagByte body) s = .next t ∧ t.offWire = s.hear.offWire ∧
      s.answered t { kind := replyKind kind, tagByte := tagByte, body := [Status.unknownKind.code] } := by
  obtain ⟨hoff, hanswered⟩ := State.answer_given (s := s) (x := s.transmit.hear) (by simp) (by simp) kind tagByte
    .unknownKind []
  refine ⟨_, exec_unknownKind h kind tagByte body, ?_⟩
  rw [State.arrive, State.take_unlisted (Kind.ofByte?_eq_none hkind)]
  exact ⟨hoff.trans s.transmit_hear_offWire, hanswered⟩

/-- Settles O14: neither frame reaches the tag table's entries. -/
theorem unlistedKindAndTagZero : Obligations.UnlistedKindAndTagZero := by
  refine ⟨fun s kind tagByte body h hkind => exec_unlisted h hkind tagByte body,
    fun s k tagByte body h hk hzero => ?_⟩
  obtain ⟨new, htake⟩ := State.take_of_tagged hk s.transmit.hear tagByte body s.transmit.notices.link
  rw [State.tagged_of_noTag (tagOf?_of_zero hzero)] at htake
  exact exec_answers h htake

/-- Settles O15: the tag table answers, counts or lists; the meaning of the frame is not reached. -/
theorem retransmissionIsNotRepeated : Obligations.RetransmissionIsNotRepeated := by
  intro s k tagByte tag body h hk htag
  obtain ⟨new, htake⟩ := State.take_of_tagged hk s.transmit.hear tagByte body s.transmit.notices.link
  have htagOf : s.transmit.hear.tagOf tag = s.tagOf tag := by rw [State.hear_tagOf, State.transmit_tagOf]
  refine ⟨fun hpending => ?_, fun hbusy => ?_, fun r hdone => ?_⟩
  · rw [State.tagged_of_pending htag (htagOf.trans hpending)] at htake
    refine ⟨_, exec_command h k tagByte body, ?_⟩
    rw [State.arrive, htake, State.transmit_offWire, State.countDuplicate_transmit_hear_offWire]
  · rw [State.tagged_of_busy htag (htagOf.trans hbusy)] at htake
    exact exec_answers h htake
  · rw [State.tagged_of_done htag (htagOf.trans hdone)] at htake
    refine ⟨_, exec_command h k tagByte body, ?_⟩
    rw [State.arrive, htake]
    exact ⟨by simp, State.list_transmit_hasStored (htagOf.trans hdone)⟩

end Sys2Proof.Machine
end

section
/-! PROOFS. Immediate requests: the bodies their readers refuse and the answer to them (R148, R152, R170), and IDENTIFY
(R155). -/

namespace Sys2Proof.Machine

/-! ## Bodies that fail the field check (R170) -/

section
variable {tagOk : Bool} {body : List Byte}

theorem readWindow_badField (hlength : body.length = 1) (h : tagOk = false ∨ 7 < fieldAt body 0 1) :
    readWindow tagOk body = .error .badField := by
  rcases h with rfl | hwindow
  · exact readWindow_badTag hlength
  · rw [readWindow, ofLength, if_pos hlength, winId?_of_le (by omega)]

theorem readWatchId_badField (hlength : body.length = 1) (h : tagOk = false ∨ 31 < fieldAt body 0 1) :
    readWatchId tagOk body = .error .badField := by
  rcases h with rfl | hid
  · exact readWatchId_badTag hlength
  · rw [readWatchId, ofLength, if_pos hlength, watchId?_of_le (by omega)]

theorem readHistory_badField (hlength : body.length = 2)
    (h : tagOk = false ∨ 7 < fieldAt body 0 1 ∨ fieldAt body 1 1 = 0 ∨ 8 < fieldAt body 1 1) :
    readHistory tagOk body = .error .badField := by
  rw [readHistory, ofLength, if_pos hlength]
  cases hwindow : winId? (fieldAt body 0 1) with
  | none => rfl
  | some w =>
    refine if_neg fun hok => ?_
    simp only [Bool.and_eq_true, decide_eq_true_eq] at hok
    obtain ⟨⟨htag, hmin⟩, hmax⟩ := hok
    rcases h with h | h | h
    · rw [h] at htag
      cases htag
    · rw [winId?_of_le h] at hwindow
      cases hwindow
    · omega

theorem readNoticeAck_badTag (hlength : body.length = 2) : readNoticeAck false body = .error .badField := by
  rw [readNoticeAck, ofLength, if_pos hlength]
  rfl

theorem readAbort_badField (hlength : body.length = 1)
    (h : tagOk = false ∨ fieldAt body 0 1 = 0 ∨ 15 < fieldAt body 0 1) :
    readAbort tagOk body = .error .badField := by
  rw [readAbort, ofLength, if_pos hlength]
  dsimp only
  split
  · rw [h.resolve_right (by omega)]
    rfl
  · rfl

theorem readEmpty_badTag (hlength : body.length = 0) : readEmpty false body = .error .badField := by
  rw [readEmpty, ofLength, if_pos hlength]
  rfl

end

/-! ## Refusals of immediate requests (R148, R152) -/

/-- The reader of this immediate kind refuses the body with this status. -/
def Kind.readerRefuses (k : Kind) (tagByte : Byte) (body : List Byte) (status : Status) : Prop :=
  match k with
  | .windowQuery => readWindow (spareClear tagByte) body = .error status
  | .watchQuery => readWatchId (spareClear tagByte) body = .error status
  | .countersRead => readWindow (spareClear tagByte) body = .error status
  | .historyRead => readHistory (spareClear tagByte) body = .error status
  | .status => readEmpty (spareClear tagByte) body = .error status
  | .identify => readEmpty (spareClear tagByte) body = .error status
  | .noticeAck => readNoticeAck (spareClear tagByte) body = .error status
  | .abort => readAbort (spareClear tagByte) body = .error status
  | .restart => readEmpty (spareClear tagByte) body = .error status
  | _ => False

section
variable {k : Kind} {tagByte : Byte} {body : List Byte} {length : Nat}

/-- What its reader refuses is answered with the reader's status and not carried out (R148, R152). -/
theorem State.take_of_readerRefuses {status : Status} (h : k.readerRefuses tagByte body status) (s : State)
    (prior : LinkState) : s.take k.code tagByte body prior = s.answer k.code tagByte status [] := by
  rw [State.take, Kind.ofByte?_code]
  cases k with
  | windowQuery => simp only [takeWindowQuery, show readWindow _ body = _ from h]
  | watchQuery => simp only [takeWatchQuery, show readWatchId _ body = _ from h]
  | countersRead => simp only [takeCountersRead, show readWindow _ body = _ from h]
  | historyRead => simp only [takeHistoryRead, show readHistory _ body = _ from h]
  | status => simp only [takeStatus, show readEmpty _ body = _ from h]
  | identify => simp only [takeIdentify, show readEmpty _ body = _ from h]
  | noticeAck => simp only [takeNoticeAck, show readNoticeAck _ body = _ from h]
  | abort => simp only [takeAbort, show readAbort _ body = _ from h]
  | restart => simp only [takeRestart, show readEmpty _ body = _ from h]
  | _ => exact h.elim

variable (hk : k.immediateLength = some length)
include hk

/-- Every immediate reader judges the length first (R170, notes/assumptions/15.md). -/
theorem Kind.readerRefuses_length (hlength : body.length ≠ length) : k.readerRefuses tagByte body .badLength := by
  cases k <;> cases hk
  all_goals exact if_neg hlength

/-- A body of the right length with a spare bit of its tag byte set or a field out of range (R148, R170). -/
theorem Kind.readerRefuses_field (hlength : body.length = length)
    (hfield : spareClear tagByte = false ∨
      ((k = .windowQuery ∨ k = .countersRead ∨ k = .historyRead) ∧ 7 < fieldAt body 0 1) ∨
      (k = .historyRead ∧ (fieldAt body 1 1 = 0 ∨ 8 < fieldAt body 1 1)) ∨
      (k = .watchQuery ∧ 31 < fieldAt body 0 1) ∨
      (k = .abort ∧ (fieldAt body 0 1 = 0 ∨ 15 < fieldAt body 0 1))) :
    k.readerRefuses tagByte body .badField := by
  cases k <;> cases hk
  case windowQuery => exact readWindow_badField hlength (by simpa using hfield)
  case countersRead => exact readWindow_badField hlength (by simpa using hfield)
  case watchQuery => exact readWatchId_badField hlength (by simpa using hfield)
  case historyRead => exact readHistory_badField hlength (by simpa using hfield)
  case abort => exact readAbort_badField hlength (by simpa using hfield)
  all_goals
    have hspare : spareClear tagByte = false := by simpa using hfield
    simp only [Kind.readerRefuses, hspare]
  case noticeAck => exact readNoticeAck_badTag hlength
  all_goals exact readEmpty_badTag hlength

end

/-- Settles O33: each refused body is answered with its reader's status. -/
theorem immediateRefused : Obligations.ImmediateRefused := by
  intro s k tagByte body length h hk
  exact ⟨fun hlength => exec_answers h (State.take_of_readerRefuses (Kind.readerRefuses_length hk hlength) _ _),
    fun hlength hfield =>
      exec_answers h (State.take_of_readerRefuses (Kind.readerRefuses_field hk hlength hfield) _ _)⟩

/-! ## IDENTIFY (R155) -/

theorem State.take_identify {tagByte : Byte} (hspare : spareClear tagByte = true) (s : State) (prior : LinkState) :
    s.take Kind.identify.code tagByte [] prior = s.answer Kind.identify.code tagByte .ok identifyBytes := by
  rw [State.take, Kind.ofByte?_code]
  simp only [takeIdentify, hspare]
  rfl

/-- Settles O32: the answer does not look at the state. -/
theorem identifyAnswers : Obligations.IdentifyAnswers := fun _ _ h hspare =>
  exec_answers h (k := .identify) (State.take_identify hspare _ _)

end Sys2Proof.Machine
end

section
/-! PROOFS. Commands that leave the transmitter and its sources alone, and what an immediate request leaves of the outgoing
reply list (R152, R168). -/

namespace Sys2Proof.Machine

/-! ## Events that send nothing (R168) -/

/-- From `s` to `t` the transmitter and its sources are left alone. -/
structure State.SameWire (s t : State) : Prop extends State.SameNotices s t where
  tracker : t.tracker = s.tracker

theorem State.sameWire_of_bus {s t : State} (h : t = { s with bus := t.bus }) : s.SameWire t := by
  rw [h]
  exact ⟨⟨rfl, rfl⟩, rfl⟩

theorem State.sameWire_gapExpiry (s : State) : s.SameWire s.gapExpiry := by
  unfold State.gapExpiry
  split <;> exact ⟨⟨rfl, rfl⟩, rfl⟩

theorem State.sameWire_receiverStart (s : State) : s.SameWire s.receiverStart := by
  unfold State.receiverStart
  split <;> exact ⟨⟨rfl, rfl⟩, rfl⟩

theorem State.sameWire_highAfterBreak (s : State) : s.SameWire s.highAfterBreak := by
  unfold State.highAfterBreak
  split <;> exact ⟨⟨rfl, rfl⟩, rfl⟩

theorem State.sameWire_backoffEnd (s : State) (tag : Tag) : s.SameWire (s.backoffEnd tag) := by
  refine ⟨s.sameNotices_backoffEnd tag, ?_⟩
  unfold State.backoffEnd
  repeat' split
  all_goals rfl

theorem State.SameWire.trans {s t u : State} (hst : s.SameWire t) (htu : t.SameWire u) : s.SameWire u :=
  ⟨⟨htu.notices.trans hst.notices, htu.tx.trans hst.tx⟩, htu.tracker.trans hst.tracker⟩

/-- Where the choice has been made and nothing new waits, none is made (R168). -/
theorem State.SameWire.transmit {s x : State} (h : s.transmit.SameWire x) : s.transmit.SameWire x.transmit := by
  rwa [State.transmit_of_settled ((State.settled_congr h.tx h.tracker h.notices).mpr s.transmit_settled)]

/-- The transmitter does not look at the level of LREQn. -/
theorem State.transmit_setLreq (s : State) (b : Bool) :
    ({ s with lreq := b } : State).transmit = { s.transmit with lreq := b } := by
  have hreply : ({ s with lreq := b } : State).outgoingReply = s.outgoingReply := rfl
  unfold State.transmit
  simp only [hreply]
  cases s.tx.frame with
  | some f => rfl
  | none =>
    cases s.tracker.immediate with
    | cons r rest => rfl
    | nil =>
      cases s.outgoingReply <;> cases s.notices.due
      case some.some => cases s.tx.lastServed <;> rfl
      all_goals rfl

theorem State.sameWire_transmit_setLreq (s : State) (b : Bool) :
    s.transmit.SameWire ({ s with lreq := b } : State).transmit := by
  rw [State.transmit_setLreq s b]
  exact ⟨⟨rfl, rfl⟩, rfl⟩

/-! ## Immediate requests and the outgoing reply list (R152) -/

theorem State.answer_outgoing (s : State) (kind tagByte : Byte) (status : Status) (contents : List Byte) :
    (s.answer kind tagByte status contents).tracker.outgoing = s.tracker.outgoing := by
  unfold State.answer State.pushImmediate
  dsimp only
  split <;> rfl

theorem State.answer_tags (s : State) (kind tagByte : Byte) (status : Status) (contents : List Byte) :
    (s.answer kind tagByte status contents).tracker.tags = s.tracker.tags := by
  unfold State.answer State.pushImmediate
  dsimp only
  split <;> rfl

/-- A FREE transmitter takes the answer placed last and no listed reply, a SENDING one neither (R152, R168). -/
theorem State.answer_transmit_outgoing {s x : State} (htx : x.tx = s.transmit.tx)
    (himmediate : x.tracker.immediate = s.transmit.tracker.immediate) (kind tagByte : Byte) (status : Status)
    (contents : List Byte) :
    (x.answer kind tagByte status contents).transmit.tracker.outgoing = x.tracker.outgoing := by
  by_cases hsending : x.tx.frame.isSome = true
  · rw [State.transmit_of_sending (s := x.answer kind tagByte status contents) hsending, State.answer_outgoing]
  · have hfree : x.tx.frame = none := by simpa using hsending
    have hnone : x.tracker.immediate = [] := by rw [himmediate, State.transmit_immediate (by rw [← htx, hfree])]
    rw [(State.answer_transmit_of_nil hnone kind tagByte status contents).2 hfree]
    exact State.answer_outgoing ..

/-- An immediate request other than ABORT and RESTART does no more to the transmitter and the tracker than to place its
answer (R152). -/
theorem State.take_answers {k : Kind} (htagged : k.isTagged = false) (habort : k ≠ .abort) (hrestart : k ≠ .restart)
    (s : State) (tagByte : Byte) (body : List Byte) (prior : LinkState) :
    ∃ (x : State) (status : Status) (contents : List Byte), x.tx = s.tx ∧ x.tracker = s.tracker ∧
      s.take k.code tagByte body prior = x.answer k.code tagByte status contents := by
  rw [State.take, Kind.ofByte?_code]
  cases k with
  | windowQuery =>
    dsimp only [takeWindowQuery]
    split <;> exact ⟨s, _, _, rfl, rfl, rfl⟩
  | watchQuery =>
    dsimp only [takeWatchQuery]
    repeat' split
    all_goals exact ⟨s, _, _, rfl, rfl, rfl⟩
  | countersRead =>
    dsimp only [takeCountersRead]
    repeat' split
    all_goals exact ⟨s, _, _, rfl, rfl, rfl⟩
  | historyRead =>
    dsimp only [takeHistoryRead]
    repeat' split
    all_goals exact ⟨s, _, _, rfl, rfl, rfl⟩
  | status =>
    dsimp only [takeStatus]
    split <;> exact ⟨s, _, _, rfl, rfl, rfl⟩
  | identify =>
    dsimp only [takeIdentify]
    split <;> exact ⟨s, _, _, rfl, rfl, rfl⟩
  | noticeAck =>
    dsimp only [takeNoticeAck]
    split
    · exact ⟨s, _, _, rfl, rfl, rfl⟩
    · rename_i n _
      split
      · exact ⟨{ s with notices := s.notices.acknowledge n s.resendTime s.timerAtFrameEnd }, _, _, rfl, rfl, rfl⟩
      · exact ⟨s, _, _, rfl, rfl, rfl⟩
  | abort => exact absurd rfl habort
  | restart => exact absurd rfl hrestart
  | _ => cases htagged

/-- Settles O13: the one kind of command touches no source of the transmitter, the other places an immediate reply. -/
theorem wireIsLeftAlone : Obligations.WireIsLeftAlone := by
  refine ⟨fun s c h hc => ?_, fun s k tagByte body h htagged habort hrestart => ?_⟩
  · suffices ∃ t, exec c s = .next t ∧ s.transmit.SameWire t by
      obtain ⟨t, hexec, hsame⟩ := this
      exact ⟨t, hexec, hsame.tx, hsame.tracker, hsame.notices⟩
    rcases hc with rfl | rfl | rfl | rfl | rfl | ⟨tag, rfl⟩ | rfl | rfl | rfl | rfl | rfl
    · exact ⟨_, exec_receiverStart h, (State.sameWire_receiverStart _).transmit⟩
    · exact ⟨_, exec_rxdHighAfterBreak h, (State.sameWire_highAfterBreak _).transmit⟩
    · exact ⟨_, exec_gapTimerExpiry h, (State.sameWire_gapExpiry _).transmit⟩
    · exact ⟨_, exec_gapEnd h, (State.sameWire_of_bus (State.gapEnd_eq _)).transmit⟩
    · exact ⟨_, exec_retryWaitEnd h, (State.sameWire_of_bus (State.retryWaitEnd_eq _)).transmit⟩
    · exact ⟨_, exec_backoffEnd h tag, (State.sameWire_backoffEnd _ tag).transmit⟩
    · exact ⟨_, exec_lreqnAsserted h,
        ((s.sameWire_transmit_setLreq true).trans (State.sameWire_of_bus (State.lreqAsserted_eq _))).transmit⟩
    · exact ⟨_, exec_lendTaken h, (State.sameWire_of_bus (State.lendTaken_eq _)).transmit⟩
    · exact ⟨_, exec_lreqnWithdrawn h,
        ((s.sameWire_transmit_setLreq false).trans (State.sameWire_of_bus (State.lreqWithdrawn_eq _))).transmit⟩
    · exact ⟨_, exec_reclaimEnd h, (State.sameWire_of_bus (State.reclaimEnd_eq _)).transmit⟩
    · exact ⟨_, exec_pollTick h, State.SameWire.transmit ⟨⟨rfl, rfl⟩, rfl⟩⟩
  · obtain ⟨x, status, contents, htx, htracker, htake⟩ := State.take_answers htagged habort hrestart
      s.transmit.hear tagByte body s.transmit.notices.link
    refine ⟨_, exec_command h k tagByte body, ?_⟩
    rw [State.arrive, htake, State.transmit_tags, State.answer_tags,
      State.answer_transmit_outgoing (s := s) htx (by rw [htracker]; rfl), htracker]
    exact ⟨rfl, s.transmit_tags⟩

end Sys2Proof.Machine
end

section
/-! PROOFS. TIMING_SET (R146, R151, R170): the present parameters as blocks of bytes that the mask picks, the reader on
such a body, and the request carried out or refused. -/

namespace Sys2Proof.Machine

/-! ## Blocks of bytes that a mask picks (R151, R170) -/

/-- The blocks whose mask bit is set, one after the other. -/
def presentBytes : Nat → List (List Byte) → List Byte
  | _, [] => []
  | mask, block :: blocks => (if mask % 2 = 1 then block else []) ++ presentBytes (mask / 2) blocks

/-- The new value where the mask bit is set, else the old one. -/
def presentOr : Nat → List Nat → List Nat → List Nat
  | mask, new :: news, old :: olds => (if mask % 2 = 1 then new else old) :: presentOr (mask / 2) news olds
  | _, _, _ => []

theorem presentBytes_length (blocks : List (List Byte)) (mask : Nat) :
    (presentBytes mask blocks).length = presentLength mask (blocks.map List.length) := by
  induction blocks generalizing mask with
  | nil => rfl
  | cons block blocks ih =>
    rw [presentBytes, List.length_append, ih, List.map_cons, presentLength]
    split <;> rfl

/-- The fields read from the picked blocks are the numbers they spell, and the old ones elsewhere. -/
theorem presentFields_presentBytes (blocks : List (List Byte)) (olds : List Nat) (mask : Nat) :
    presentFields mask (blocks.map List.length) olds (presentBytes mask blocks) =
      presentOr mask (blocks.map beNat) olds := by
  induction blocks generalizing mask olds with
  | nil => rfl
  | cons block blocks ih =>
    cases olds with
    | nil => rfl
    | cons old olds =>
      simp only [List.map_cons, presentFields, presentBytes, presentOr]
      split
      · rw [List.take_left, List.drop_left, ih]
      · rw [List.nil_append, ih]

/-! ## The bits of the mask -/

/-- A bit of a mask is the lowest one after a shift right. -/
theorem mod_two_iff_getLsbD (mask : Byte) (i : Nat) : mask.toNat / 2 ^ i % 2 = 1 ↔ mask.getLsbD i = true := by
  rw [BitVec.getLsbD, Nat.testBit_eq_decide_div_mod_eq, decide_eq_true_iff]

/-- The bits of a mask one by one, as the readers take them. -/
theorem mask_bits (mask : Byte) :
    (mask.toNat % 2 = 1 ↔ mask.getLsbD 0 = true) ∧ (mask.toNat / 2 % 2 = 1 ↔ mask.getLsbD 1 = true) ∧
    (mask.toNat / 2 / 2 % 2 = 1 ↔ mask.getLsbD 2 = true) ∧
    (mask.toNat / 2 / 2 / 2 % 2 = 1 ↔ mask.getLsbD 3 = true) ∧
    (mask.toNat / 2 / 2 / 2 / 2 % 2 = 1 ↔ mask.getLsbD 4 = true) ∧
    (mask.toNat / 2 / 2 / 2 / 2 / 2 % 2 = 1 ↔ mask.getLsbD 5 = true) := by
  simp only [← mod_two_iff_getLsbD, Nat.div_div_eq_div_mul]
  simp

/-- Bits 7 and 6 of the mask are spare (R151, R170). -/
theorem mask_lt_iff (mask : Byte) : mask.toNat < 64 ↔ mask.getLsbD 6 = false ∧ mask.getLsbD 7 = false := by
  have hlt := mask.isLt
  rw [← Bool.not_eq_true, ← Bool.not_eq_true, ← mod_two_iff_getLsbD, ← mod_two_iff_getLsbD]
  omega

/-- As many bits of the mask count as there are fields (R170). -/
theorem presentLength_mod (sizes : List Nat) (mask : Nat) :
    presentLength (mask % 2 ^ sizes.length) sizes = presentLength mask sizes := by
  induction sizes generalizing mask with
  | nil => rfl
  | cons size sizes ih =>
    rw [presentLength, presentLength, List.length_cons, pow_succ', Nat.mod_mul_right_mod, Nat.mod_mul_right_div_self, ih]

theorem presentInRange_nil (mask : Nat) : presentInRange mask [] = true := rfl

/-- Every field whose mask bit is set passes. -/
theorem presentInRange_cons {mask : Nat} {ok : Bool} {oks : List Bool} :
    presentInRange mask (ok :: oks) = true ↔ (mask % 2 = 1 → ok = true) ∧ presentInRange (mask / 2) oks = true := by
  rw [presentInRange, Bool.and_eq_true, Bool.or_eq_true, decide_eq_true_iff, ← Nat.mod_two_ne_one, or_iff_not_imp_left,
    not_not]

/-! ## The six parameters (R151, R170) -/

/-- The fields of a TIMING_SET body when all are present (R170). -/
def Timing.blocks (p : Timing) : List (List Byte) :=
  [be1 p.pollTick, be1 p.interval, be2 p.lifetime, be1 p.pollShare, be2 p.resendInterval, be1 p.resendLimit]

theorem Timing.blocks_lengths (p : Timing) : p.blocks.map List.length = timingSizes := rfl

theorem Timing.blocks_numbers {p : Timing} (h : p.fits) : p.blocks.map beNat = p.toList := by
  obtain ⟨htick, hinterval, hlifetime, hshare, hresend, hlimit⟩ := h
  simp only [Timing.blocks, List.map_cons, List.map_nil, beNat_be1, beNat_be2, Nat.mod_eq_of_lt htick,
    Nat.mod_eq_of_lt hinterval, Nat.mod_eq_of_lt hlifetime, Nat.mod_eq_of_lt hshare, Nat.mod_eq_of_lt hresend,
    Nat.mod_eq_of_lt hlimit]
  rfl

section
variable (mask : Byte)

theorem timingBody_eq (p : Timing) : timingBody mask p = mask :: presentBytes mask.toNat p.blocks := by
  obtain ⟨h0, h1, h2, h3, h4, h5⟩ := mask_bits mask
  simp only [timingBody, Timing.blocks, presentBytes, h0, h1, h2, h3, h4, h5, List.append_assoc, List.append_nil]

theorem presentLength_timingSizes : presentLength (mask.toNat % 64) timingSizes = timingLength mask := by
  obtain ⟨h0, h1, h2, h3, h4, h5⟩ := mask_bits mask
  rw [show 64 = 2 ^ timingSizes.length from rfl, presentLength_mod]
  simp only [timingSizes, timingLength, presentLength, h0, h1, h2, h3, h4, h5, Nat.add_assoc, Nat.add_zero]

theorem Timing.ofList_presentOr (old p : Timing) :
    Timing.ofList (presentOr mask.toNat p.toList old.toList) = old.updated p mask := by
  obtain ⟨h0, h1, h2, h3, h4, h5⟩ := mask_bits mask
  simp only [Timing.toList, presentOr, h0, h1, h2, h3, h4, h5]
  rfl

/-- The present parameters are in range after the update exactly when they are in the body (R151). -/
theorem Timing.updated_inRange_iff (old : Timing) {p : Timing} (h : p.fits) :
    presentInRange mask.toNat (old.updated p mask).rangeOk = true ↔ p.presentOk mask := by
  obtain ⟨h0, h1, h2, h3, h4, h5⟩ := mask_bits mask
  obtain ⟨-, -, hlifetimeLt, -⟩ := h
  have hlifetime : p.lifetime ≤ 65535 := Nat.le_of_lt_succ hlifetimeLt
  simp +contextual only [Timing.rangeOk, presentInRange_cons, Timing.updated, Timing.presentOk, h0, h1, h2, h3, h4, h5,
    if_true, Bool.and_eq_true, decide_eq_true_eq, hlifetime, presentInRange_nil, true_and, and_true, implies_true]

end

/-! ## The body of a TIMING_SET (R170) -/

section
variable {tagOk : Bool} {old p : Timing} {mask : Byte}

/-- The reader on the layout of R170: the parameters after it, if the field check passes. -/
theorem readTimingSet_timingBody (h : p.fits) :
    readTimingSet tagOk old (timingBody mask p) =
      checked (tagOk && decide (mask.toNat < 64) && presentInRange mask.toNat (old.updated p mask).rangeOk)
        (old.updated p mask) := by
  have hlength : (presentBytes mask.toNat p.blocks).length = presentLength (mask.toNat % 64) timingSizes := by
    rw [presentBytes_length, p.blocks_lengths, ← presentLength_mod]
    rfl
  have hfields := presentFields_presentBytes p.blocks old.toList mask.toNat
  rw [p.blocks_lengths, Timing.blocks_numbers h] at hfields
  rw [timingBody_eq, readTimingSet, if_pos hlength, hfields, Timing.ofList_presentOr]

theorem readTimingSet_ok (h : p.fits) (hspare : mask.getLsbD 6 = false ∧ mask.getLsbD 7 = false)
    (hrange : p.presentOk mask) : readTimingSet true old (timingBody mask p) = .ok (old.updated p mask) := by
  rw [readTimingSet_timingBody h, decide_eq_true ((mask_lt_iff mask).mpr hspare),
    (Timing.updated_inRange_iff mask old h).mpr hrange]
  rfl

theorem readTimingSet_badField (h : p.fits)
    (hbad : mask.getLsbD 6 = true ∨ mask.getLsbD 7 = true ∨ tagOk = false ∨ ¬ p.presentOk mask) :
    readTimingSet tagOk old (timingBody mask p) = .error .badField := by
  rw [readTimingSet_timingBody h]
  refine if_neg fun hok => ?_
  rw [Bool.and_eq_true, Bool.and_eq_true, decide_eq_true_iff, mask_lt_iff, Timing.updated_inRange_iff mask old h] at hok
  obtain ⟨⟨htag, h6, h7⟩, hrange⟩ := hok
  rw [h6, h7, htag] at hbad
  simp [hrange] at hbad

theorem readTimingSet_badLength {rest : List Byte} (h : rest.length ≠ timingLength mask) :
    readTimingSet tagOk old (mask :: rest) = .error .badLength := by
  rw [← presentLength_timingSizes] at h
  exact if_neg h

end

/-! ## TIMING_SET at the tracker (R151) -/

theorem plainTagByte_eq_false_iff {tagByte : Byte} :
    plainTagByte tagByte = false ↔ spareClear tagByte = false ∨ forceOf tagByte = true := by
  rw [plainTagByte, Bool.and_eq_false_iff, Bool.not_eq_false']

theorem State.take_timingSet (s : State) (tagByte : Byte) (body : List Byte) (prior : LinkState) :
    s.take Kind.timingSet.code tagByte body prior =
      s.tagged .timingSet tagByte fun t x =>
        x.newTimingSet t tagByte (readTimingSet (plainTagByte tagByte) x.timing body) := by
  rw [State.take, Kind.ofByte?_code]
  rfl

/-- Off the wire, with the tag written, parameters are set as after the DEAF exit. -/
theorem State.judging_setTiming_offWire {s x : State} {tag : Tag} (h : s.judging x tag) (timing : Timing)
    (e : TagEntry) :
    (({ x with timing := timing } : State).setTag tag e).offWire =
      (({ s.hear with timing := timing } : State).setTag tag e).offWire := by
  rcases h with rfl | rfl <;> apply State.offWire_ext <;> simp

section
variable {s : State} {tagByte : Byte} {tag : Tag} {body : List Byte}
  (h : s.phase = .running) (hnew : s.isNew tagByte tag)
include h hnew

/-- A TIMING_SET that passes its checks sets the parameters and answers them (R151). -/
theorem exec_timingSet_passes {after : Timing}
    (hread : readTimingSet (plainTagByte tagByte) s.timing body = .ok after) :
    ∃ t, exec (.timingSet tagByte body) s = .next t ∧
      (let reply : Reply := { kind := 0xD0#8, tagByte := tagByte, body := 0x00#8 :: after.toBytes }
       t.offWire = ({ s.hear with timing := after }.setTag tag (.done (phaseOf tagByte) reply)).offWire ∧
         t.hasStored tag (phaseOf tagByte) reply) := by
  obtain ⟨x, hexec, hx⟩ := exec_new h hnew (State.take_timingSet s.transmit.hear tagByte body _)
  obtain ⟨-, -, htiming, -⟩ := State.judging_fields hx
  rw [htiming, hread] at hexec
  refine ⟨_, hexec, ?_, State.store_transmit_hasStored ..⟩
  rw [State.transmit_offWire, State.newTimingSet, State.executed, State.store_offWire]
  exact State.judging_setTiming_offWire hx after _

/-- One that its reader refuses, whatever the parameters are, changes none (R147, R151). -/
theorem exec_timingSet_refused {status : Status}
    (hread : ∀ old, readTimingSet (plainTagByte tagByte) old body = .error status) :
    ∃ t, exec (.timingSet tagByte body) s = .next t ∧
      s.refusedWith t tag tagByte (plainReply .timingSet tagByte status) :=
  exec_new_refused h (k := .timingSet) rfl hnew (State.take_timingSet ..) fun x => by rw [hread]; rfl

end

/-- Settles O30: the layout is read back as the parameters after it; any other body is refused by its first check. -/
theorem timingSetSetsPresent : Obligations.TimingSetSetsPresent := by
  intro s tagByte tag h hnew
  refine ⟨fun mask p hfits h6 h7 hspare hforce hrange => ?_, ?_, fun mask rest hlength => ?_,
    fun mask p hfits hbad => ?_⟩
  · refine exec_timingSet_passes h hnew ?_
    rw [plainTagByte_iff.mpr ⟨hspare, hforce⟩]
    exact readTimingSet_ok hfits ⟨h6, h7⟩ hrange
  · exact exec_timingSet_refused h hnew fun _ => rfl
  · exact exec_timingSet_refused h hnew fun _ => readTimingSet_badLength hlength
  · exact exec_timingSet_refused h hnew fun _ =>
      readTimingSet_badField hfits (by rwa [plainTagByte_eq_false_iff, or_assoc])

end Sys2Proof.Machine
end

section
/-! PROOFS. The link receiver: the frame receiver's verdict on a run of bytes, its waits for RXD, what it discards, and
the frame that it hands over as its command (R159 to R166). -/

namespace Sys2Proof.Machine

/-! ## What the tracker leaves of the receiver (R144, R166) -/

/-- From `s` to `t` the part stays in or out of reset and the frame receiver holds the same bytes. -/
structure State.SameHeld (s t : State) : Prop where
  phase : t.phase = s.phase
  held : t.rx.held = s.rx.held

section
variable {kind : Kind} {tagByte : Byte}

theorem State.sameHeld_tagged {new : Tag → State → State} (hnew : ∀ t x, State.SameHeld x (new t x)) (s : State) :
    s.SameHeld (s.tagged kind tagByte new) := by
  unfold State.tagged
  split
  · exact ⟨rfl, rfl⟩
  · rename_i t _
    split
    · exact hnew t s
    · split <;> exact ⟨rfl, rfl⟩
    · split
      · rw [State.list_eq]
        exact ⟨rfl, rfl⟩
      · obtain ⟨hphase, hheld⟩ := hnew t (s.clearTag t)
        exact ⟨hphase, hheld⟩

theorem State.SameHeld.store {s x : State} (h : s.SameHeld x) (t : Tag) (phase : Bool) (r : Reply) :
    s.SameHeld (x.store t phase r) := by
  rw [State.store_eq]
  exact ⟨h.phase, h.held⟩

theorem State.sameHeld_refuse (s : State) (t : Tag) (status : Status) :
    s.SameHeld (s.refuse kind t tagByte status) := State.SameHeld.store ⟨rfl, rfl⟩ ..

theorem State.SameHeld.executed {s x : State} (h : s.SameHeld x) (t : Tag) (contents : List Byte) :
    s.SameHeld (x.executed kind t tagByte contents) := h.store ..

theorem State.sameHeld_newBus (s : State) (t : Tag) (r : Except Status LinkRequest) :
    s.SameHeld (s.newBus kind t tagByte r) := by
  unfold State.newBus
  split
  · exact s.sameHeld_refuse ..
  · split
    · exact s.sameHeld_refuse ..
    · exact ⟨rfl, rfl⟩

theorem State.sameHeld_newWindowRequest (s : State) (t : Tag) (r : Except Status (WinId × LinkRequest)) :
    s.SameHeld (s.newWindowRequest kind t tagByte r) := by
  unfold State.newWindowRequest
  split
  · exact s.sameHeld_refuse ..
  · split
    · exact s.sameHeld_refuse ..
    · exact ⟨rfl, rfl⟩

theorem State.sameHeld_newWatchSet (s : State) (t : Tag) (r : Except Status (WatchId × WatchConfig)) :
    s.SameHeld (s.newWatchSet t tagByte r) := by
  unfold State.newWatchSet
  split
  · exact s.sameHeld_refuse ..
  · split
    · exact s.sameHeld_refuse ..
    · exact State.SameHeld.executed (by exact ⟨rfl, rfl⟩) ..

theorem State.sameHeld_newWatchDrop (s : State) (t : Tag) (r : Except Status WatchId) :
    s.SameHeld (s.newWatchDrop t tagByte r) := by
  unfold State.newWatchDrop
  split
  · exact s.sameHeld_refuse ..
  · split
    · exact s.sameHeld_refuse ..
    · refine State.SameHeld.executed ?_ ..
      rw [State.dropWatch_eq]
      exact ⟨rfl, rfl⟩

theorem State.sameHeld_newCountersClear (s : State) (t : Tag) (r : Except Status WinId) :
    s.SameHeld (s.newCountersClear t tagByte r) := by
  unfold State.newCountersClear
  split
  · exact s.sameHeld_refuse ..
  · split
    · exact State.SameHeld.executed (by exact ⟨rfl, rfl⟩) ..
    · exact s.sameHeld_refuse ..

theorem State.sameHeld_newTimingSet (s : State) (t : Tag) (r : Except Status Timing) :
    s.SameHeld (s.newTimingSet t tagByte r) := by
  unfold State.newTimingSet
  split
  · exact s.sameHeld_refuse ..
  · exact State.SameHeld.executed (by exact ⟨rfl, rfl⟩) ..

theorem State.sameHeld_abortEntry (s : State) (e : LinkEntry) : s.SameHeld (s.abortEntry e) := by
  unfold State.abortEntry
  repeat' split
  all_goals constructor <;> simp

/-- The immediate requests answer, ABORT and RESTART after their effect; RESTART clears the counters only (R156). -/
theorem State.take_sameHeld_of_immediate {k : Kind} (hk : k.isTagged = false) (s : State) (body : List Byte)
    (prior : LinkState) : s.SameHeld (s.take k.code tagByte body prior) := by
  rw [State.take, Kind.ofByte?_code]
  cases k with
  | abort =>
    dsimp only [takeAbort]
    split
    · exact ⟨rfl, rfl⟩
    · split
      · exact ⟨rfl, rfl⟩
      · obtain ⟨hphase, hheld⟩ := s.sameHeld_abortEntry ‹_›
        exact ⟨hphase, hheld⟩
  | restart =>
    dsimp only [takeRestart]
    split
    · exact ⟨rfl, rfl⟩
    · exact ⟨s.cutLinkTurn_phase, rfl⟩
  | windowQuery | watchQuery | countersRead | historyRead | status | identify | noticeAck =>
    dsimp only [takeWindowQuery, takeWatchQuery, takeCountersRead, takeHistoryRead, takeStatus, takeIdentify,
      takeNoticeAck]
    repeat' split
    all_goals exact ⟨rfl, rfl⟩
  | _ => cases hk

/-- No frame at the tracker changes the held bytes (R144, R166). -/
theorem State.take_sameHeld (s : State) (kind tagByte : Byte) (body : List Byte) (prior : LinkState) :
    s.SameHeld (s.take kind tagByte body prior) := by
  cases hk : Kind.ofByte? kind with
  | none =>
    rw [State.take_unlisted hk]
    exact ⟨rfl, rfl⟩
  | some k =>
    obtain rfl : k.code = kind := by simpa using List.find?_some hk
    cases htagged : k.isTagged with
    | false => exact State.take_sameHeld_of_immediate htagged s body prior
    | true =>
      rw [State.take, Kind.ofByte?_code]
      cases k with
      | read | write | sequence => exact s.sameHeld_tagged fun _ x => x.sameHeld_newBus ..
      | windowSet | windowClose => exact s.sameHeld_tagged fun _ x => x.sameHeld_newWindowRequest ..
      | watchSet => exact s.sameHeld_tagged fun _ x => x.sameHeld_newWatchSet ..
      | watchDrop => exact s.sameHeld_tagged fun _ x => x.sameHeld_newWatchDrop ..
      | countersClear => exact s.sameHeld_tagged fun _ x => x.sameHeld_newCountersClear ..
      | timingSet => exact s.sameHeld_tagged fun _ x => x.sameHeld_newTimingSet ..
      | _ => cases htagged

end

theorem State.arrive_sameHeld (s : State) (kind tagByte : Byte) (body : List Byte) :
    s.SameHeld (s.arrive kind tagByte body) := by
  obtain ⟨hphase, hheld⟩ := s.hear.take_sameHeld kind tagByte body s.notices.link
  exact ⟨hphase, hheld⟩

/-! ## The receiver beside the transmitter's choice (R168) -/

/-- `s` with another receiver. -/
def State.withRx (s : State) (rx : Receiver) : State := { s with rx := rx }

theorem State.transmit_withRx (s : State) (rx : Receiver) : (s.withRx rx).transmit = s.transmit.withRx rx := by
  have hreply : (s.withRx rx).outgoingReply = s.outgoingReply := rfl
  have htx : (s.withRx rx).tx = s.tx := rfl
  have htracker : (s.withRx rx).tracker = s.tracker := rfl
  have hnotices : (s.withRx rx).notices = s.notices := rfl
  unfold State.transmit
  rw [hreply, htx, htracker, hnotices]
  cases s.tx.frame with
  | some f => rfl
  | none =>
    cases s.tracker.immediate with
    | cons r rest => rfl
    | nil =>
      cases s.outgoingReply <;> cases s.notices.due
      case some.some => cases s.tx.lastServed <;> rfl
      all_goals rfl

/-- A command that writes the receiver alone: off the wire no choice shows. -/
theorem State.transmit_withRx_offWire (s : State) (rx : Receiver) :
    (s.transmit.withRx rx).transmit.offWire = (s.withRx rx).offWire := by
  rw [← State.transmit_withRx, State.transmit_transmit, State.transmit_offWire]

theorem State.holdBytes_self (s : State) : s.holdBytes s.rx.held = s := rfl

/-! ## A run of bytes at the frame receiver (R162 to R165) -/

section
variable (s : State) (fuel : Nat)

theorem State.scan_nil : s.scan fuel [] = s.holdBytes [] := by cases fuel <;> rfl

/-- Bytes that are no SYNC are discarded in HUNT. -/
theorem State.scan_of_no_sync {input : List Byte} (h : ∀ x ∈ input, x ≠ Config.sync) :
    s.scan (fuel + 1) input = s.holdBytes [] := by
  have hdrop : input.dropWhile (fun b => decide (b ≠ Config.sync)) = [] := by
    simpa [List.dropWhile_eq_nil_iff] using h
  rw [State.scan, hdrop]

/-- A scan begins at the first SYNC. -/
theorem State.scan_of_sync {before : List Byte} (h : ∀ x ∈ before, x ≠ Config.sync) (after : List Byte) :
    s.scan (fuel + 1) (before ++ Config.sync :: after) = s.scan (fuel + 1) (Config.sync :: after) := by
  rw [← State.scan_dropWhile, List.dropWhile_append_of_pos (by simpa using h), State.scan_dropWhile]

/-- A SYNC alone, or the beginning of a frame, is held. -/
theorem State.scan_part {after : List Byte}
    (h : after = [] ∨ ∃ len rest, after = len :: rest ∧ len.toNat ≤ 240 ∧ rest.length < len.toNat + 4) :
    s.scan (fuel + 1) (Config.sync :: after) = s.holdBytes (Config.sync :: after) := by
  obtain rfl | ⟨len, rest, rfl, hlen, hpart⟩ := h
  · rw [State.scan, dropWhile_sync]
  · have hfits : ¬ Config.maxBody < len.toNat := not_lt.mpr hlen
    rw [State.scan_frame, if_neg hfits, if_pos (by rw [frameLength]; omega)]

/-- A whole frame whose CRC differs is discarded and counted, and the bytes after its SYNC are rescanned (R165). -/
theorem State.scan_badCrc {len : Byte} {rest : List Byte} (hlen : len.toNat ≤ 240)
    (hwhole : rest.length = len.toNat + 4) (hcrc : crcMatches (Config.sync :: len :: rest) = false) :
    s.scan (fuel + 1) (Config.sync :: len :: rest) = s.countBadCrc.scan fuel (len :: rest) := by
  have htake : (Config.sync :: len :: rest).take (frameLength len.toNat) = Config.sync :: len :: rest :=
    List.take_of_length_le (by simp only [List.length_cons, frameLength]; omega)
  have hfits : ¬ Config.maxBody < len.toNat := not_lt.mpr hlen
  rw [State.scan_frame, if_neg hfits, if_neg (by rw [frameLength]; omega), htake, hcrc, if_neg Bool.false_ne_true]

end

/-- A property that every write of the receiver and every frame handed over keeps, a run of bytes keeps. -/
theorem State.scan_ind {P : State → Prop} (hrx : ∀ (x : State) (rx : Receiver), P x → P (x.withRx rx))
    (hframe : ∀ (x : State) (frame : List Byte), P x → P (x.handOver frame)) (fuel : Nat)
    (input : List Byte) {s : State} (h : P s) : P (s.scan fuel input) := by
  induction fuel generalizing s input with
  | zero => exact hrx s _ h
  | succ fuel ih =>
    unfold State.scan
    split
    · exact hrx s _ h
    · exact hrx s _ h
    · split
      · exact ih _ (hrx s _ h)
      · split
        · exact hrx s _ h
        · dsimp only
          split
          · exact ih _ (hframe s _ h)
          · exact ih _ (hrx s _ h)

/-- The part goes on running through a run of bytes, and each frame in it is followed by a choice (R166, R168). -/
theorem State.scan_running_settled (fuel : Nat) (input : List Byte) {s : State} (hphase : s.phase = .running)
    (hsettled : s.settled) : (s.scan fuel input).phase = .running ∧ (s.scan fuel input).settled := by
  refine State.scan_ind (P := fun x => x.phase = .running ∧ x.settled) (fun _ _ => id) ?_ fuel input
    ⟨hphase, hsettled⟩
  rintro x frame ⟨hrunning, -⟩
  refine ⟨?_, State.transmit_settled _⟩
  rw [State.handOver, State.transmit_phase, ((x.holdBytes []).arrive_sameHeld ..).phase]
  exact hrunning

/-! ## A character from RXD (R159, R162, R164) -/

/-- The line state after a character (R159). -/
def lineAfter (stopHigh : Bool) : LineState := if stopHigh then .looking else .waitHigh

/-- After a byte: the line state is `l`, and the gap timer runs while bytes are held (R159, R164, R165). -/
def State.byteTaken (s : State) (l : LineState) : State :=
  s.withLine l (if s.rx.held.isEmpty then none else some (gapTime s.rate))

theorem State.byteTaken_withRx (s : State) (rx : Receiver) (l : LineState) :
    (s.withRx rx).byteTaken l = s.withRx
      { rx with line := l, gapTimer := if rx.held.isEmpty then none else some (gapTime s.rate) } := rfl

theorem State.byteTaken_settled {s : State} {l : LineState} : (s.byteTaken l).settled ↔ s.settled := .rfl

/-- Only the held bytes tell the frame receiver what a byte means: not the line state, and not the gap timer. -/
theorem State.byteTaken_receive (s : State) (l : LineState) (b : Byte) (l' : LineState) :
    ((s.byteTaken l).receive b).byteTaken l' = (s.receive b).byteTaken l' := by
  have h : (s.byteTaken l).receive b =
      (s.receive b).withLine l (if s.rx.held.isEmpty then none else some (gapTime s.rate)) := State.withLine_scan ..
  rw [h]
  rfl

theorem State.byteArrival_eq_receive {s : State} (h : s.rx.line = .looking) (b : Byte) (stopHigh : Bool) :
    s.byteArrival b stopHigh = (s.receive b).byteTaken (lineAfter stopHigh) := by
  have hline : ({ s with rx := { s.rx with line := lineAfter stopHigh } } : State).receive b =
      (s.receive b).withLine (lineAfter stopHigh) s.rx.gapTimer := State.withLine_scan ..
  unfold State.byteArrival
  rw [h]
  exact congrArg State.restartGapTimer hline

/-- An arrival in HUNT leaves HUNT, the gap timer stopped (R164, R166): the line state may be set before it or after. -/
theorem State.arrive_byteTaken {s : State} (hhunt : s.rx.held = []) (kind tagByte : Byte) (body : List Byte)
    (l : LineState) :
    (((s.arrive kind tagByte body).transmit.holdBytes []).byteTaken l).transmit =
      ((s.withLine l none).arrive kind tagByte body).transmit := by
  have hheld : (s.arrive kind tagByte body).transmit.rx.held = [] := by
    rw [State.transmit_rx, (s.arrive_sameHeld ..).held, hhunt]
  rw [State.withLine_arrive, State.withLine_transmit, ← hheld, State.holdBytes_self, State.byteTaken, hheld]
  exact (State.withLine_transmit ..).trans (by rw [State.transmit_transmit]; rfl)

section
variable {s : State} {b : Byte} {stopHigh : Bool} {input : List Byte} (h : s.phase = .running)
  (hline : s.rx.line = .looking) (hinput : s.rx.held ++ [b] = input)
include h hline hinput

/-- A character on a receiver that looks for one: the held bytes with it are scanned. -/
theorem exec_byteArrival_scan :
    exec (.byteArrival b stopHigh) s =
      .next ((s.transmit.scan (input.length + 1) input).byteTaken (lineAfter stopHigh)).transmit := by
  rw [exec_byteArrival h, State.byteArrival_eq_receive (by rw [State.transmit_rx, hline]), State.receive,
    State.transmit_rx, hinput]

/-- A scan that hands no frame over writes the receiver alone. -/
theorem exec_byteArrival_writes (f : Receiver → Receiver)
    (hscan : ∀ x : State, x.scan (input.length + 1) input = x.withRx (f x.rx)) :
    ∃ t, exec (.byteArrival b stopHigh) s = .next t ∧
      t.offWire = ((s.withRx (f s.rx)).byteTaken (lineAfter stopHigh)).offWire := by
  refine ⟨_, exec_byteArrival_scan h hline hinput, ?_⟩
  rw [hscan, State.transmit_rx, State.byteTaken_withRx, State.transmit_rate, State.transmit_withRx_offWire]
  rfl

/-- A scan that comes to a good frame as its last bytes is the arrival of that frame (R165, R166). -/
theorem exec_byteArrival_frame (f : Receiver → Receiver) {fuel : Nat} {kind tagByte : Byte} {body : List Byte}
    (hbody : body.length ≤ 240)
    (hscan : ∀ x : State, x.scan (input.length + 1) input =
      (x.withRx (f x.rx)).scan (fuel + 1) (frameBytes kind tagByte body)) :
    exec (.byteArrival b stopHigh) s =
      exec (.unknownKind kind tagByte body)
        (s.withRx { f s.rx with line := lineAfter stopHigh, held := [], gapTimer := none }) := by
  rw [exec_byteArrival_scan h hline hinput, exec_unknownKind (by exact h), hscan, State.scan_frameBytes hbody,
    State.scan_nil, State.transmit_rx, State.transmit_withRx, State.arrive_byteTaken rfl]
  rfl

end

/-- Characters that arrive in order from HUNT are read as one run (R162 to R165). -/
theorem State.fed_scan {s : State} (hphase : s.phase = .running) (hsettled : s.settled) (bytes input : List Byte) :
    State.fed bytes ((s.scan (input.length + 1) input).byteTaken .looking)
      ((s.scan ((input ++ bytes).length + 1) (input ++ bytes)).byteTaken .looking) := by
  induction bytes generalizing input with
  | nil =>
    rw [List.append_nil]
    rfl
  | cons b bytes ih =>
    have hread := State.scan_append b (Nat.le_refl input.length) s
    have hnext := ih (input ++ [b])
    rw [List.length_append, List.length_singleton, hread, List.append_assoc, List.singleton_append] at hnext
    obtain ⟨hrunning, hchosen⟩ := State.scan_running_settled (input.length + 1) input hphase hsettled
    obtain ⟨-, hthen⟩ := State.scan_running_settled (input.length + 2) (input ++ [b]) hphase hsettled
    rw [hread] at hthen
    refine ⟨_, ?_, hnext⟩
    rw [exec_byteArrival (by exact hrunning), State.transmit_of_settled (State.byteTaken_settled.mpr hchosen),
      State.byteArrival_eq_receive rfl, State.byteTaken_receive,
      State.transmit_of_settled (State.byteTaken_settled.mpr hthen)]
    rfl

/-- The rescan behind a wrong CRC does what the arrival of the same bytes in order from HUNT does (R165). -/
theorem exec_byteArrival_rescan {s : State} {b len : Byte} {rest : List Byte} {stopHigh : Bool}
    (h : s.phase = .running) (hline : s.rx.line = .looking) (hinput : s.rx.held ++ [b] = Config.sync :: len :: rest)
    (hlen : len.toNat ≤ 240) (hwhole : rest.length = len.toNat + 4)
    (hcrc : crcMatches (Config.sync :: len :: rest) = false) (hsettled : s.settled) :
    ∃ t, State.fed (len :: rest)
        (s.withRx { s.rx with held := [], gapTimer := none, badCrc := satInc Config.max16 s.rx.badCrc }) t ∧
      exec (.byteArrival b stopHigh) s = .next (t.withRx { t.rx with line := lineAfter stopHigh }) := by
  obtain ⟨-, hchosen⟩ := State.scan_running_settled (s := s.countBadCrc) (rest.length + 2) (len :: rest) h hsettled
  refine ⟨(s.countBadCrc.scan (rest.length + 2) (len :: rest)).byteTaken .looking, ?_, ?_⟩
  · have hhunt : (s.countBadCrc.scan 1 []).byteTaken .looking = s.withRx
        { s.rx with held := [], gapTimer := none, badCrc := satInc Config.max16 s.rx.badCrc } := by
      rw [← hline]
      rfl
    have hfed := State.fed_scan (s := s.countBadCrc) h hsettled (len :: rest) []
    rw [List.length_nil, hhunt] at hfed
    exact hfed
  · have hscan : s.scan ((Config.sync :: len :: rest).length + 1) (Config.sync :: len :: rest) =
        s.countBadCrc.scan (rest.length + 2) (len :: rest) := s.scan_badCrc _ hlen hwhole hcrc
    rw [exec_byteArrival_scan h hline hinput, State.transmit_of_settled hsettled, hscan,
      State.transmit_of_settled (State.byteTaken_settled.mpr hchosen)]
    rfl

/-! ## What the receiver waits for, discards and hands over -/

/-- Settles O7: each event writes the receiver alone, or nothing. -/
theorem receiverWaits : Obligations.ReceiverWaits := by
  refine ⟨fun s h => ⟨fun hline => ?_, fun hline => ?_⟩, fun s b stopHigh h hline => ?_, fun s n h htimer => ?_⟩
  · have hstart : s.transmit.receiverStart = s.transmit.withRx { s.rx with line := .looking } := by
      simp only [State.receiverStart, State.transmit_rx, hline, State.withRx]
    refine ⟨_, exec_receiverStart h, ?_⟩
    rw [hstart, State.transmit_withRx_offWire]
    rfl
  · have hhigh : s.transmit.highAfterBreak = s.transmit.withRx { s.rx with line := .looking } := by
      simp only [State.highAfterBreak, State.transmit_rx, hline, State.withRx]
    refine ⟨_, exec_rxdHighAfterBreak h, ?_⟩
    rw [hhigh, State.transmit_withRx_offWire]
    rfl
  · have hnone : s.transmit.byteArrival b stopHigh = s.transmit := by
      unfold State.byteArrival
      rw [State.transmit_rx]
      split
      · exact absurd ‹_› hline
      · rfl
      · rfl
    refine ⟨_, exec_byteArrival h b stopHigh, ?_⟩
    rw [hnone, State.transmit_transmit, State.transmit_offWire]
  · have hexpiry : s.transmit.gapExpiry = s.transmit.withRx
        { s.rx with held := [], gapTimer := none, truncated := satInc Config.max16 s.rx.truncated } := by
      simp only [State.gapExpiry, State.transmit_rx, htimer, State.withRx]
    refine ⟨_, exec_gapTimerExpiry h, ?_⟩
    rw [hexpiry, State.transmit_withRx_offWire]
    rfl

/-- Settles O8, by what the scan of the held bytes with the new one comes to. -/
theorem receiverDiscards : Obligations.ReceiverDiscards := by
  refine ⟨fun s b stopHigh h hline hheld => ?_, fun s b len rest stopHigh h hline hinput hlen =>
    ⟨fun hpart => ?_, fun hwhole hcrc => ?_⟩⟩
  · by_cases hsync : b = 0xC3#8
    · subst hsync
      exact exec_byteArrival_writes h hline (by rw [hheld]; rfl) (fun rx => { rx with held := [0xC3#8] }) fun x =>
        x.scan_part _ (.inl rfl)
    · rw [if_neg hsync, if_neg hsync]
      exact exec_byteArrival_writes (input := [b]) h hline (by rw [hheld]; rfl) (fun rx => { rx with held := [] })
        fun x => x.scan_of_no_sync _ (List.forall_mem_singleton.mpr hsync)
  · rw [hinput]
    exact exec_byteArrival_writes h hline hinput (fun rx => { rx with held := 0xC3#8 :: len :: rest }) fun x =>
      x.scan_part _ (.inr ⟨len, rest, rfl, hlen, hpart⟩)
  · have hbad (x : State) : x.scan ((0xC3#8 :: len :: rest).length + 1) (0xC3#8 :: len :: rest) =
        x.countBadCrc.scan (rest.length + 2) (len :: rest) := x.scan_badCrc _ hlen hwhole hcrc
    refine ⟨fun hnone => ?_, fun before after hsplit hbefore =>
      ⟨fun hpart => ?_, fun kind tagByte body hbody hframe => ?_⟩, fun hsettled => ?_⟩
    · exact exec_byteArrival_writes h hline hinput
        (fun rx => { rx with held := [], badCrc := satInc Config.max16 rx.badCrc }) fun x =>
          (hbad x).trans (x.countBadCrc.scan_of_no_sync _ hnone)
    · refine exec_byteArrival_writes h hline hinput
        (fun rx => { rx with held := 0xC3#8 :: after, badCrc := satInc Config.max16 rx.badCrc }) fun x => ?_
      rw [hbad, hsplit]
      exact (x.countBadCrc.scan_of_sync _ hbefore after).trans (x.countBadCrc.scan_part _ hpart)
    · refine exec_byteArrival_frame h hline hinput (fun rx => { rx with badCrc := satInc Config.max16 rx.badCrc })
        (fuel := rest.length + 1) hbody fun x => ?_
      rw [hbad, hsplit, ← hframe]
      exact x.countBadCrc.scan_of_sync _ hbefore after
    · exact exec_byteArrival_rescan h hline hinput hlen hwhole hcrc hsettled

/-- Settles O9: the scan of SYNC and LEN counts the frame and holds nothing. -/
theorem oversizeDiscards : Obligations.OversizeDiscards := by
  intro s b stopHigh h hline hheld hover
  obtain ⟨t, hexec, hleft⟩ := exec_byteArrival_writes (stopHigh := stopHigh) (input := [Config.sync, b]) h hline
    (by rw [hheld]; rfl) (fun rx => { rx with held := [], oversize := satInc Config.max16 rx.oversize }) fun x => by
      rw [State.scan_frame, if_pos (by exact hover), State.scan_nil]
      rfl
  have hheldAfter := congrArg (fun u : State => u.rx.held) hleft
  refine ⟨t, hexec, ?_, hleft⟩
  rw [Receiver.state, show t.rx.held = [] from hheldAfter]

/-- Settles O10: the scan of a frame as it is built is its arrival, and the command of a listed kind is that arrival
too. -/
theorem receivedFrameIsItsCommand : Obligations.ReceivedFrameIsItsCommand := by
  intro s kind tagByte body b stopHigh h hline hbody hlast taken
  have harrival : exec (.byteArrival b stopHigh) s = exec (.unknownKind kind tagByte body) taken :=
    exec_byteArrival_frame h hline hlast id hbody fun _ => rfl
  refine ⟨harrival, fun k hk => ?_⟩
  have htaken : taken.phase = .running := h
  rw [harrival, exec_unknownKind htaken, exec_command htaken, hk]

end Sys2Proof.Machine
end

section
/-! PROOFS. A step takes the front command, and every command answers a next state with the queue of waiting commands as
it was (R40, R144, R166, R168): no effect writes that queue. -/

namespace Sys2Proof.Machine

/-- Settles O1: the step reads the front of the queue. -/
theorem stepTakesFrontCommand : Obligations.StepTakesFrontCommand := by
  intro s c rest hfront
  rw [step, hfront]

/-! ## Requests at the tracker (R144 to R156) -/

@[simp] theorem State.list_pending (s : State) (t : Tag) : (s.list t).pending = s.pending := by rw [State.list_eq]

@[simp] theorem State.refuse_pending (s : State) (kind : Kind) (t : Tag) (tagByte : Byte) (status : Status) :
    (s.refuse kind t tagByte status).pending = s.pending := State.store_pending ..

@[simp] theorem State.executed_pending (s : State) (kind : Kind) (t : Tag) (tagByte : Byte) (contents : List Byte) :
    (s.executed kind t tagByte contents).pending = s.pending := State.store_pending ..

@[simp] theorem State.dropWatch_pending (s : State) (id : WatchId) : (s.dropWatch id).pending = s.pending :=
  State.orphanPoll_pending ..

@[simp] theorem State.abortEntry_pending (s : State) (e : LinkEntry) : (s.abortEntry e).pending = s.pending := by
  unfold State.abortEntry
  repeat' split
  all_goals simp

@[simp] theorem State.restarted_pending (s : State) : s.restarted.pending = s.pending := s.cutLinkTurn_pending

section
variable {kind : Kind} {tagByte : Byte}

/-- The tag table hands a new request to its meaning, and answers or lists any other (R145). -/
theorem State.tagged_pending {new : Tag → State → State} (hnew : ∀ t x, (new t x).pending = x.pending) (s : State) :
    (s.tagged kind tagByte new).pending = s.pending := by
  unfold State.tagged
  split
  · exact s.answer_pending ..
  · split
    · exact hnew _ s
    · split
      · exact s.countDuplicate_pending
      · exact s.answer_pending ..
    · split
      · exact s.list_pending _
      · exact (hnew _ _).trans (s.clearTag_pending _)

theorem State.newBus_pending (s : State) (t : Tag) (r : Except Status LinkRequest) :
    (s.newBus kind t tagByte r).pending = s.pending := by
  unfold State.newBus
  repeat' split
  all_goals simp

theorem State.newWindowRequest_pending (s : State) (t : Tag) (r : Except Status (WinId × LinkRequest)) :
    (s.newWindowRequest kind t tagByte r).pending = s.pending := by
  unfold State.newWindowRequest
  repeat' split
  all_goals simp

theorem State.newWatchSet_pending (s : State) (t : Tag) (r : Except Status (WatchId × WatchConfig)) :
    (s.newWatchSet t tagByte r).pending = s.pending := by
  unfold State.newWatchSet
  repeat' split
  all_goals simp

theorem State.newWatchDrop_pending (s : State) (t : Tag) (r : Except Status WatchId) :
    (s.newWatchDrop t tagByte r).pending = s.pending := by
  unfold State.newWatchDrop
  repeat' split
  all_goals simp

theorem State.newCountersClear_pending (s : State) (t : Tag) (r : Except Status WinId) :
    (s.newCountersClear t tagByte r).pending = s.pending := by
  unfold State.newCountersClear
  repeat' split
  all_goals simp

theorem State.newTimingSet_pending (s : State) (t : Tag) (r : Except Status Timing) :
    (s.newTimingSet t tagByte r).pending = s.pending := by
  unfold State.newTimingSet
  split <;> simp

/-- The immediate requests answer, NOTICE_ACK, ABORT and RESTART after their effect (R152). -/
theorem State.take_pending_of_immediate {k : Kind} (hk : k.isTagged = false) (s : State) (body : List Byte)
    (prior : LinkState) : (s.take k.code tagByte body prior).pending = s.pending := by
  rw [State.take, Kind.ofByte?_code]
  cases k with
  | windowQuery | watchQuery | countersRead | historyRead | status | identify | noticeAck | abort | restart =>
    dsimp only [takeWindowQuery, takeWatchQuery, takeCountersRead, takeHistoryRead, takeStatus, takeIdentify,
      takeNoticeAck, takeAbort, takeRestart]
    repeat' split
    all_goals simp
  | _ => cases hk

/-- Every frame at the tracker (R144). -/
theorem State.take_pending (s : State) (kind tagByte : Byte) (body : List Byte) (prior : LinkState) :
    (s.take kind tagByte body prior).pending = s.pending := by
  cases hk : Kind.ofByte? kind with
  | none =>
    rw [State.take_unlisted hk]
    exact s.answer_pending ..
  | some k =>
    obtain rfl : k.code = kind := by simpa using List.find?_some hk
    cases htagged : k.isTagged with
    | false => exact State.take_pending_of_immediate htagged s body prior
    | true =>
      rw [State.take, Kind.ofByte?_code]
      cases k with
      | read | write | sequence => exact s.tagged_pending fun _ x => x.newBus_pending ..
      | windowSet | windowClose => exact s.tagged_pending fun _ x => x.newWindowRequest_pending ..
      | watchSet => exact s.tagged_pending fun _ x => x.newWatchSet_pending ..
      | watchDrop => exact s.tagged_pending fun _ x => x.newWatchDrop_pending ..
      | countersClear => exact s.tagged_pending fun _ x => x.newCountersClear_pending ..
      | timingSet => exact s.tagged_pending fun _ x => x.newTimingSet_pending ..
      | _ => cases htagged

end

@[simp] theorem State.arrive_pending (s : State) (kind tagByte : Byte) (body : List Byte) :
    (s.arrive kind tagByte body).pending = s.pending := s.hear.take_pending ..

/-! ## The link (R159 to R169) -/

@[simp] theorem State.handOver_pending (s : State) (frame : List Byte) : (s.handOver frame).pending = s.pending := by
  rw [State.handOver, State.transmit_pending, State.arrive_pending, State.holdBytes_pending]

/-- A run of bytes writes the receiver and hands over frames (R162 to R165). -/
theorem State.scan_pending (fuel : Nat) (input : List Byte) (s : State) :
    (s.scan fuel input).pending = s.pending :=
  State.scan_ind (P := fun x => x.pending = s.pending) (fun _ _ h => h)
    (fun x frame h => (x.handOver_pending frame).trans h) fuel input rfl

theorem State.byteArrival_pending (s : State) (data : Byte) (stopHigh : Bool) :
    (s.byteArrival data stopHigh).pending = s.pending := by
  unfold State.byteArrival
  split
  · exact State.scan_pending ..
  · rfl
  · rfl

theorem State.gapExpiry_pending (s : State) : s.gapExpiry.pending = s.pending := by
  unfold State.gapExpiry
  split <;> rfl

theorem State.receiverStart_pending (s : State) : s.receiverStart.pending = s.pending := by
  unfold State.receiverStart
  split <;> rfl

theorem State.highAfterBreak_pending (s : State) : s.highAfterBreak.pending = s.pending := by
  unfold State.highAfterBreak
  split <;> rfl

theorem State.frameEnd_pending (s : State) : s.frameEnd.pending = s.pending := by
  unfold State.frameEnd
  dsimp only
  repeat' split
  all_goals rfl

/-! ## The arbiter, the bus and the queue entries (R16, R33 to R38, R50 to R58) -/

/-- What writes the bus alone leaves the command queue (R22, R33 to R37). -/
theorem State.pending_of_bus {s t : State} (h : t = { s with bus := t.bus }) : t.pending = s.pending := by
  rw [h]

theorem State.grant_pending (s : State) : s.grant.pending = s.pending := by
  unfold State.grant State.grantLink State.grantPoll
  repeat' split
  all_goals simp

theorem State.backoffEnd_pending (s : State) (t : Tag) : (s.backoffEnd t).pending = s.pending := by
  unfold State.backoffEnd
  repeat' split
  all_goals rfl

theorem State.deadlinePasses_pending (s : State) (t : Tag) : (s.deadlinePasses t).pending = s.pending := by
  unfold State.deadlinePasses
  repeat' split
  all_goals simp

theorem State.takesEffect_pending (s : State) (w : WinId) : (s.takesEffect w).pending = s.pending := by
  unfold State.takesEffect State.applyWindowRequest
  repeat' split
  all_goals simp

theorem State.enteredOnly.pending {s t : State} (h : s.enteredOnly t) : t.pending = s.pending := by
  obtain ⟨-, hpending, -⟩ := h
  exact hpending

/-! ## Every command -/

/-- The start after a reset takes the command queue over (R40). -/
theorem State.boot_pending (s : State) (cause : ResetCause) (rate : BitVec 2) :
    (s.boot cause rate).pending = s.pending := by
  rw [State.boot_eq]
  rfl

/-- The envelope of a command adds the choices of the transmitter, which write no command (R168). -/
theorem State.event_pending {f : State → State} (hf : ∀ x : State, (f x).pending = x.pending) (s : State) :
    (s.event f).pending = s.pending := by
  unfold State.event
  split
  · rfl
  · rw [State.transmit_pending, hf, State.transmit_pending]

theorem State.entryEvent_pending {f : State → State} (hf : ∀ x : State, x.enteredOnly (f x)) (s : State) :
    (s.entryEvent f).pending = s.pending := by
  unfold State.entryEvent
  split
  · rfl
  · rw [State.chooseAfterEntry_pending, (hf _).pending, State.transmit_pending]

/-- Settles O3: a reset ends or begins, or one effect runs in its envelope, and none of the effects writes the queue of
waiting commands. -/
theorem everyCommandGoesOn : Obligations.EveryCommandGoesOn := by
  intro c s
  cases c with
  | powerOn rate =>
    simp only [exec, execPowerOn]
    split
    · exact ⟨_, rfl, (State.transmit_pending _).trans (s.boot_pending ..)⟩
    · exact ⟨_, rfl, rfl⟩
  | rstnAsserted =>
    simp only [exec, execRstnAsserted]
    split <;> exact ⟨_, rfl, rfl⟩
  | rstnWithdrawn rate =>
    simp only [exec, execRstnWithdrawn]
    split
    · exact ⟨_, rfl, s.transmit_pending⟩
    · exact ⟨_, rfl, (State.transmit_pending _).trans (s.boot_pending ..)⟩
  | receiverStart => exact ⟨_, rfl, s.event_pending State.receiverStart_pending⟩
  | byteArrival data stopHigh => exact ⟨_, rfl, s.event_pending fun x => x.byteArrival_pending data stopHigh⟩
  | gapTimerExpiry => exact ⟨_, rfl, s.event_pending State.gapExpiry_pending⟩
  | frameEnd => exact ⟨_, rfl, s.event_pending State.frameEnd_pending⟩
  | rxdHighAfterBreak => exact ⟨_, rfl, s.event_pending State.highAfterBreak_pending⟩
  | grant => exact ⟨_, rfl, s.event_pending State.grant_pending⟩
  | accessEnd ready deferred lines =>
    exact ⟨_, rfl, s.entryEvent_pending fun x => x.accessEnd_enteredOnly ready deferred lines⟩
  | gapEnd => exact ⟨_, rfl, s.event_pending fun x => State.pending_of_bus x.gapEnd_eq⟩
  | retryWaitEnd => exact ⟨_, rfl, s.event_pending fun x => State.pending_of_bus x.retryWaitEnd_eq⟩
  | backoffEnd tag => exact ⟨_, rfl, s.event_pending fun x => x.backoffEnd_pending tag⟩
  | deadline tag => exact ⟨_, rfl, s.event_pending fun x => x.deadlinePasses_pending tag⟩
  | windowRequestTakesEffect w => exact ⟨_, rfl, s.event_pending fun x => x.takesEffect_pending w⟩
  | lreqnAsserted =>
    exact ⟨_, rfl, State.event_pending (fun x => State.pending_of_bus x.lreqAsserted_eq) { s with lreq := true }⟩
  | lendTaken => exact ⟨_, rfl, s.event_pending fun x => State.pending_of_bus x.lendTaken_eq⟩
  | lreqnWithdrawn =>
    exact ⟨_, rfl, State.event_pending (fun x => State.pending_of_bus x.lreqWithdrawn_eq) { s with lreq := false }⟩
  | reclaimEnd => exact ⟨_, rfl, s.event_pending fun x => State.pending_of_bus x.reclaimEnd_eq⟩
  | pollTick => exact ⟨_, rfl, s.event_pending State.pollTick_pending⟩
  | intervalEnd => exact ⟨_, rfl, s.entryEvent_pending State.intervalEnd_enteredOnly⟩
  | resendTimerExpiry => exact ⟨_, rfl, s.event_pending State.resendExpiry_pending⟩
  | _ => exact ⟨_, rfl, s.event_pending fun x => x.arrive_pending ..⟩

end Sys2Proof.Machine
end
